-- ==== Sys2Proof/Word.lean ====
section
/-! DEFINITION. The words and identifiers of the part (spec 00, Conventions): bytes of the link and of the banks, timebase
readings, station numbers, turret positions, bank numbers, sequence numbers. -/

namespace Sys2Proof

/-- One byte: a payload byte of the link (R159) or a pixel (R112). -/
abbrev Byte := BitVec 8

/-- A reading of the Station Timebase: a 32-bit count of 100 µs ticks that wraps (R182). -/
abbrev Stamp := BitVec 32

/-- A station number, 0 to 15 (spec 00, Identifiers). -/
abbrev Station := Fin 16

/-- A turret position, 0 to 5 (R73). -/
abbrev TurretPos := Fin 6

/-- One of the two frame banks, 0 and 1 (R115). -/
abbrev BankId := Fin 2

/-- A point's sequence number, 1 to 65,535 (spec 00, Identifiers). -/
abbrev Seq := Nat

/-- The two bench lines (R47, R48). -/
inductive BenchLine where
  | quiet
  | motion
  deriving DecidableEq, Repr

/-- The four axes of the ADU, each with a driver port (spec 04, opening). -/
inductive Axis where
  | turret
  | stageX
  | stageY
  | focus
  deriving DecidableEq, Repr

/-- The axes that carry an axis timer: stage X, stage Y and the focus (R80, R83). -/
inductive LinearAxis where
  | stageX
  | stageY
  | focus
  deriving DecidableEq, Repr

end Sys2Proof
end

