-- ==== Sys2Proof/Syntax.lean ====
section
/-! DEFINITION. The commands of the block: one constructor per row of spec/opcode_table.json. The sixteen request rows
and BADCODE_REQUEST have no operand: each is the event in which the Request Decoder takes the request at the head of the
Receive Buffer, and its sender and arguments are that request's (R164, R168; log 3). -/

namespace Sys2Proof

/-- The events the station takes. -/
inductive Instr where
  /-- PIN_RESET (R177): the reset pin is asserted; `strap` is the value on the four strap pins. -/
  | pinReset (strap : Station)
  /-- TIMEBASE_TICK (R182). -/
  | timebaseTick
  /-- CONFIG (R178). -/
  | config
  /-- ADDPT (R18). -/
  | addpt
  /-- DROPPT (R19). -/
  | droppt
  /-- RUN (R21). -/
  | run
  /-- HALT (R22). -/
  | halt
  /-- RETEST (R24). -/
  | retest
  /-- CLEARPLAN (R25). -/
  | clearplan
  /-- READPT (R170). -/
  | readpt
  /-- READROWS (R126). -/
  | readrows
  /-- READSTAT (R171). -/
  | readstat
  /-- READPEERS (R170). -/
  | readpeers
  /-- READCOUNT (R174). -/
  | readcount
  /-- CLEARNOTE (R172). -/
  | clearnote
  /-- PARK (R180). -/
  | park
  /-- UNPARK (R180). -/
  | unpark
  /-- RESETSTN (R181). -/
  | resetstn
  /-- RECEIVE_FRAME (R162): `bits` are the bits received between the start mark and the end mark, in the order they pass. -/
  | receiveFrame (bits : List Bool)
  /-- MEDIUM_FREE (R166). -/
  | mediumFree
  /-- WIN_MEDIUM (R160). -/
  | winMedium
  /-- LOSE_ARBITRATION (R160). -/
  | loseArbitration
  /-- FRAME_ABANDONED (R161). -/
  | frameAbandoned
  /-- OWN_FRAME_PASSES (R161). -/
  | ownFramePasses
  /-- LINE_ASSERTS (R48): the level of `line` is sensed asserted. -/
  | lineAsserts (line : BenchLine)
  /-- LINE_RELEASES (R48): the level of `line` is sensed released. -/
  | lineReleases (line : BenchLine)
  /-- MOTION_SENSE_EXPIRY (R54). -/
  | motionSenseExpiry
  /-- QUIET_SENSE_EXPIRY (R57). -/
  | quietSenseExpiry
  /-- SETTLE_EXPIRY (R55). -/
  | settleExpiry
  /-- REFRESH_EXPIRY (R62). -/
  | refreshExpiry
  /-- SILENCE_EXPIRY (R63): the silence limit of `peer`'s entry. -/
  | silenceExpiry (peer : Station)
  /-- STUCK_EXPIRY (R65): the stuck timer of `line`. -/
  | stuckExpiry (line : BenchLine)
  /-- MOVE_FAULT_END_REPORT (R87). -/
  | moveFaultEndReport
  /-- NO_MOTION_REPORT (R74). -/
  | noMotionReport
  /-- INDEX_PULSE (R77): `homeMark` tells whether the pulse carries the home mark. -/
  | indexPulse (homeMark : Bool)
  /-- GAP_TIMER_EXPIRY (R79). -/
  | gapTimerExpiry
  /-- AXIS_ARRIVED (R80). -/
  | axisArrived (axis : Axis)
  /-- AXIS_STOPPED (R80): `position` is the position reached, 0.1 µm; one outside the axis's range too (log 23). -/
  | axisStopped (axis : Axis) (position : Int)
  /-- AXIS_HOME (R81). -/
  | axisHome (axis : Axis)
  /-- AXIS_DRIVER_FAULT (R82). -/
  | axisDriverFault (axis : Axis)
  /-- AXIS_TIMER_EXPIRY (R82). -/
  | axisTimerExpiry (axis : LinearAxis)
  /-- FOCUS_STEP_NOOP_DONE (R84). -/
  | focusStepNoopDone
  /-- LOAD_SAMPLE (R90): a signed 24-bit count. -/
  | loadSample (sample : BitVec 24)
  /-- LDU_STEP_TIMER_EXPIRY (R104). -/
  | lduStepTimerExpiry
  /-- RAMPSLOW_EXPIRY (R99). -/
  | rampslowExpiry
  /-- DWELL_EXPIRY (R102). -/
  | dwellExpiry
  /-- LOAD_SILENCE_EXPIRY (R108). -/
  | loadSilenceExpiry
  /-- FRAME_START (R112). -/
  | frameStart
  /-- ROW_ARRIVAL (R113): the 256 pixels of the row in physical column order. -/
  | rowArrival (pixels : Vector Byte 256)
  /-- ROW_WRITE_COMPLETE (R113). -/
  | rowWriteComplete
  /-- CAMERA_TIMER_EXPIRY (R123). -/
  | cameraTimerExpiry
  /-- READOUT_COMPLETE (R126). -/
  | readoutComplete
  /-- HOLD_EXPIRY (R127): the hold of `bank`. -/
  | holdExpiry (bank : BankId)
  /-- WARMUP_EXPIRY (R128). -/
  | warmupExpiry
  /-- GGU_COMPLETION (R146). -/
  | gguCompletion
  /-- BADCODE_REQUEST (R168). -/
  | badcodeRequest
  deriving DecidableEq, Repr

end Sys2Proof
end

