-- ==== Sys2Proof/Decode.lean ====
section
/-! DEFINITION. The block fetches no instruction, and spec/opcode_table.json gives none of its rows bits, so no word spells
a command (log 24). The bits a station does read, frames and request payloads, are read in Machine/Link.lean and
Machine/Operands.lean. -/

namespace Sys2Proof

/-- The command a word spells by the table's bits: the table gives no row bits, so none. -/
def decodeTableWord (_nbits _w : Nat) : Option Instr :=
  none

end Sys2Proof
end

