-- ==== Sys2Proof/Config.lean ====
section
/-! DEFINITION. What is fixed for a configured station: the six CONFIG sections of R178, the fixed intervals of the rules,
and the two free values of the model. -/

namespace Sys2Proof

/-- Kind of the tool at a turret position (R73, codes of R178). -/
inductive ToolKind where
  | empty
  | vickers
  | knoop
  | objective
  deriving DecidableEq, Repr

/-- CONFIG section 1, Bench (R178). `enables` has one bit per notice group, `edges` one bit per condition flag. -/
structure BenchSection where
  moveBudget : Nat
  settleMs   : Nat
  silenceMs  : Nat
  stuckS     : Nat
  sink       : Station
  enables    : Byte
  edges      : Byte
  deriving DecidableEq, Repr

/-- One entry of the Tool Table (R73), written from CONFIG sections 2 and 3 (R178). -/
structure ToolEntry where
  kind       : ToolKind
  offX       : Int
  offY       : Int
  scale      : Nat
  revCol     : Bool
  revRow     : Bool
  focusStart : Nat
  deriving DecidableEq, Repr

/-- CONFIG section 4, Load (R178). -/
structure LoadSection where
  scaleFactor      : Nat
  contactThreshold : Nat
  releaseThreshold : Nat
  declareCount     : Nat
  releaseCount     : Nat
  rampRate         : Nat
  band             : Nat
  excursionLimit   : Nat
  travelLimit      : Nat
  approachSpeed    : Nat
  deriving DecidableEq, Repr

/-- CONFIG section 5, Image (R178). `window` is W of R132. -/
structure ImageSection where
  window         : Nat
  threshold      : Nat
  minRun         : Nat
  lightLow       : Nat
  lightHigh      : Nat
  lightStep      : Nat
  minEnergy      : Nat
  focusStep      : Nat
  holdS          : Nat
  asymmetry      : Nat
  spacing        : Nat
  deriving DecidableEq, Repr

/-- CONFIG section 6, Stage (R178). -/
structure StageSection where
  xMin : Int
  xMax : Int
  yMin : Int
  yMax : Int
  deriving DecidableEq, Repr

/-- The content of the six sections: as received (R178) and, once validated, as in force (R179). -/
structure Settings where
  bench : BenchSection
  tools : Vector ToolEntry 6
  load  : LoadSection
  image : ImageSection
  stage : StageSection
  deriving DecidableEq, Repr

/-- A Tool Table entry before configuration is complete: EMPTY, zero offsets, focus start height 0 (R73). -/
def ToolEntry.cleared : ToolEntry :=
  { kind := .empty, offX := 0, offY := 0, scale := 0, revCol := false, revRow := false, focusStart := 0 }

/-- The cleared content of R177: every field 0. It gives the values R73, R90 and R176 state before configuration is
complete (tools EMPTY, scale factor 0, groups disabled, edges SET, sink 0); the other zeros are DESIGN CHOICE, log 28. -/
def Settings.cleared : Settings :=
  { bench := { moveBudget := 0, settleMs := 0, silenceMs := 0, stuckS := 0, sink := 0, enables := 0, edges := 0 }
    tools := Vector.replicate 6 ToolEntry.cleared
    load := { scaleFactor := 0, contactThreshold := 0, releaseThreshold := 0, declareCount := 0, releaseCount := 0,
              rampRate := 0, band := 0, excursionLimit := 0, travelLimit := 0, approachSpeed := 0 }
    image := { window := 0, threshold := 0, minRun := 0, lightLow := 0, lightHigh := 0, lightStep := 0, minEnergy := 0,
               focusStep := 0, holdS := 0, asymmetry := 0, spacing := 0 }
    stage := { xMin := 0, xMax := 0, yMin := 0, yMax := 0 } }

/-- Ticks in a millisecond and in a second (spec 00, Time). -/
def Config.ticksPerMs : Nat := 10
def Config.ticksPerS : Nat := 10000

/-- The sense delay, 200 µs (R53, R56). -/
def Config.senseTicks : Nat := 2
/-- The refresh interval, 250 ms (R62). -/
def Config.refreshTicks : Nat := 2500
/-- The turret gap limit, 1,500 ms (R79). -/
def Config.gapTicks : Nat := 15000
/-- The stage axis limit, 5,000 ms (R82). -/
def Config.stageTicks : Nat := 50000
/-- The focus axis limit, 2,000 ms (R83). -/
def Config.focusTicks : Nat := 20000
/-- The load-cell silence limit, 50 ms (R108). -/
def Config.cellTicks : Nat := 500
/-- The camera silence limit, 500 ms (R123). -/
def Config.cameraTicks : Nat := 5000
/-- The lamp warm-up, 2,000 ms (R128). -/
def Config.warmupTicks : Nat := 20000

/-- FREE VALUE (log 17): the hardness that R153 leaves open, a quotient with divisor 0, for a mean dwell force. -/
opaque Config.openHardness : Int → Nat

/-- FREE VALUE (log 23): the counter after a stopped report outside the axis's range, for the number of such reports before
it. R80 makes the counter the position reported, and spec 00 gives no position there. -/
opaque Config.openPosition : Nat → Int

end Sys2Proof
end

