-- ==== Sys2Proof/Machine/State.lean ====
section
/-! DEFINITION. The state of the station, block by block, as plain data, and its value after a pin reset. `State` keeps
apart what the blocks read and never write (`Site`), what they own (`Blocks`), the configuration store, the banks' pixels
and the queue of waiting commands. -/

namespace Sys2Proof.Machine

/-- A timer of the part: not running, or its starting stamp (R182). -/
abbrev Timer := Option Stamp

/-- The pixels of the two banks: (address, byte) with addresses strictly rising and no byte equal to the one an
unlisted address reads as. -/
abbrev Memory := List Host.Cell

/-- A load-cell sample, a signed 24-bit count (R90). -/
abbrev Sample := BitVec 24

/-! ### Link Interface (chapter 9) -/

/-- The run states (R12); their codes in STATE frames are R159's. -/
inductive RunState where
  | empty
  | loaded
  | running
  | stopping
  | halted
  | finished
  deriving DecidableEq, Repr

/-- What a STATE frame can announce (R159). -/
inductive Announce where
  | idle
  | waitMove
  | moving
  | settling
  | waitQuiet
  | quiet
  deriving DecidableEq, Repr

/-- A STATE frame's content (R62, R159). -/
structure StateFrame where
  announced : Announce
  run       : RunState
  work      : Option Seq
  deriving DecidableEq, Repr

/-- A received request: the sender and the payload of its ASK frame (R164). -/
structure Request where
  sender  : Station
  payload : List Byte
  deriving DecidableEq, Repr

/-- A placed answer: the station it is addressed to and its payload (R165, R168). -/
structure Answer where
  dest    : Station
  payload : List Byte
  deriving DecidableEq, Repr

/-- The frame that has won the medium (R160). A RESULT knows the seq it was built from, and whether its entry is still
in the Result Queue (R175: the queue may be emptied while it is sent). -/
inductive OutFrame where
  | state (frame : StateFrame)
  | answer (answer : Answer)
  | notice (dest : Station) (payload : List Byte)
  | result (seq : Seq) (dest : Station) (payload : List Byte) (queued : Bool)
  deriving DecidableEq, Repr

/-- What the transmit arbiter has offered (R166). -/
inductive Offer where
  | state
  | answer
  | notice
  | result
  deriving DecidableEq, Repr

/-- The transmitter: idle, in the arbitration field of an offer, or sending a frame that has won (R160, R161). -/
inductive Tx where
  | idle
  | offering (offer : Offer)
  | sending (frame : OutFrame)
  deriving DecidableEq, Repr

/-- The LKI (R164 to R167). -/
structure Lki where
  synced   : Bool
  recv     : List Request
  placed   : List Answer
  reserved : Nat
  slot     : Option StateFrame
  tx       : Tx
  deriving DecidableEq, Repr

/-! ### Bench Coordination Unit (chapter 3) -/

/-- The own coordination state (R47). -/
inductive OwnState where
  | idle
  | waitMove
  | starting
  | checking
  | moving
  | settling
  | waitQuiet
  | holding
  | quiet
  | blocked
  deriving DecidableEq, Repr

/-- The units that put claims (R49). The ADU's claims are MOTION, the LDU's and the RIU's are QUIET. -/
inductive Claimant where
  | adu
  | ldu
  | riu
  deriving DecidableEq, Repr

/-- A claim record (R49); its kind follows from its claimant. -/
structure Claim where
  claimant : Claimant
  work     : Option Seq
  deriving DecidableEq, Repr

/-- The announced state of a Peer Table entry: last heard, never heard, or silent past the limit (R59). -/
inductive PeerState where
  | heard (a : Announce)
  | absent
  | lost
  deriving DecidableEq, Repr

/-- A Peer Table entry (R59). -/
structure PeerEntry where
  announced : PeerState
  run       : Option RunState
  work      : Option Seq
  stamp     : Option Stamp
  deriving DecidableEq, Repr

/-- The stuck timer of one line and whether the line is stuck (R65). -/
structure StuckWatch where
  timer : Timer
  stuck : Bool
  deriving DecidableEq, Repr

/-- The BCU (R70). `quietIn` and `motionIn` are the line levels last reported (log 7). -/
structure Bcu where
  own         : OwnState
  quietIn     : Bool
  motionIn    : Bool
  claims      : List Claim
  waiting     : List Claim
  peers       : Vector PeerEntry 16
  benchQueue  : List Station
  sense       : Timer
  settle      : Timer
  refresh     : Timer
  quietStuck  : StuckWatch
  motionStuck : StuckWatch
  clash       : Bool
  deriving DecidableEq, Repr

/-! ### Run Sequencer (chapters 1 and 2) -/

/-- Point states (R6). -/
inductive PointState where
  | waiting
  | indenting
  | indented
  | viewing
  | measuring
  | done
  | failed
  | cancelled
  deriving DecidableEq, Repr

/-- Reasons of a FAILED or CANCELLED record (R7). -/
inductive Reason where
  | noContact
  | contactLost
  | overload
  | forceSat
  | rampSlow
  | unstable
  | cellSilent
  | noImpression
  | clipped
  | tooSmall
  | lowLight
  | focusPoor
  | rowLost
  | camSilent
  | axisFault
  | halted
  deriving DecidableEq, Repr

/-- Edge mode of a point (R3, R136). -/
inductive EdgeMode where
  | outer
  | widest
  deriving DecidableEq, Repr

/-- Verdict of a measurement (R154). -/
inductive Verdict where
  | pass
  | low
  | high
  | noLimit
  deriving DecidableEq, Repr

/-- The plan part of a record (R3). -/
structure Plan where
  seq       : Seq
  group     : Nat
  x         : Int
  y         : Int
  indenter  : TurretPos
  objective : TurretPos
  force     : Nat
  dwell     : Nat
  edge      : EdgeMode
  low       : Option Nat
  high      : Option Nat
  origin    : Option Seq
  deriving DecidableEq, Repr

/-- The progress part of a record (R4). -/
structure Progress where
  state         : PointState
  reason        : Option Reason
  recaptures    : Nat
  rowRecaptures : Nat
  windowTop     : Nat
  shiftX        : Int
  shiftY        : Int
  deriving DecidableEq, Repr

/-- The indent part (R5, R102). -/
structure IndentPart where
  stamp      : Stamp
  mean       : Int
  peak       : Int
  excursions : Nat
  depth      : Int
  deriving DecidableEq, Repr

/-- The result part (R157). -/
structure ResultPart where
  dH      : Nat
  dV      : Nat
  hardness : Nat
  verdict : Verdict
  asym    : Bool
  split   : Bool
  spacing : Bool
  offX    : Int
  offY    : Int
  stamp   : Stamp
  level   : Nat
  height  : Nat
  deriving DecidableEq, Repr

/-- A point record: plan, progress, indent and result parts (R2, R5). -/
structure Point where
  plan     : Plan
  progress : Progress
  indent   : Option IndentPart
  result   : Option ResultPart
  deriving DecidableEq, Repr

/-- Condition of the NEXT slot (R27). -/
inductive NextCond where
  | pending
  | travelling
  | arrived
  deriving DecidableEq, Repr

/-- What a successful capture hands over and the RSQ keeps with the point (R121, R145). -/
structure CaptureValues where
  bank   : BankId
  stamp  : Stamp
  level  : Nat
  height : Nat
  deriving DecidableEq, Repr

/-- Condition of the NOW slot (R27); a CAPTURED point carries its capture values (R145). -/
inductive NowCond where
  | indenting
  | capturing
  | captured (values : CaptureValues)
  deriving DecidableEq, Repr

structure NextSlot where
  seq  : Seq
  cond : NextCond
  deriving DecidableEq, Repr

structure NowSlot where
  seq  : Seq
  cond : NowCond
  deriving DecidableEq, Repr

/-- The LAST slot; its condition is always MEASURING (R27). -/
structure LastSlot where
  seq    : Seq
  values : CaptureValues
  deriving DecidableEq, Repr

/-- The phase of the group in progress (R27). -/
inductive GroupPhase where
  | indent
  | view
  deriving DecidableEq, Repr

/-- The move in flight, when there is one: the phase move, or a point's move (R27). -/
inductive MoveRef where
  | phaseMove
  | point (seq : Seq)
  deriving DecidableEq, Repr

/-- The group in progress: its group order and the two turret positions its members share (R9). -/
structure Group where
  order     : List Seq
  indenter  : TurretPos
  objective : TurretPos
  deriving DecidableEq, Repr

/-- The RSQ (R26, R27). -/
structure Rsq where
  points       : List Point
  orderList    : List Seq
  groupList    : List Seq
  group        : Option Group
  phase        : Option GroupPhase
  next         : Option NextSlot
  now          : Option NowSlot
  last         : Option LastSlot
  moveInFlight : Option MoveRef
  stageAt      : Option Seq
  focusFound   : Bool
  resultQueue  : List Seq
  run          : RunState
  owner        : Option Station
  draining     : Bool
  deriving DecidableEq, Repr

/-! ### Axis Drive Unit (chapter 4) -/

/-- Direction of the turret (R76). -/
inductive Direction where
  | forward
  | reverse
  deriving DecidableEq, Repr

/-- The turret state (R76); while homing an INDEXING turret has no counted position. -/
inductive Turret where
  | unknown
  | at (position : TurretPos)
  | indexing (counted : Option TurretPos) (direction : Direction)
  deriving DecidableEq, Repr

/-- A command on an axis driver's lines (R80, R81, R86). -/
inductive AxisCommand where
  | drive (target : Int)
  | home
  | stop
  deriving DecidableEq, Repr

/-- A stage axis or the focus (R80, R83). `cmd` is the last command sent to its driver (log 25). -/
structure AxisState where
  pos   : Int
  known : Bool
  timer : Timer
  cmd   : Option AxisCommand
  deriving DecidableEq, Repr

/-- Progress of an axis in a move (R74). -/
inductive AxisProgress where
  | homing
  | driving
  | arrived
  | stopping
  | stopped
  | faulted
  deriving DecidableEq, Repr

/-- A stage or focus axis of a move: its target and its progress (R74). -/
structure AxisGoal where
  target   : Int
  progress : AxisProgress
  deriving DecidableEq, Repr

/-- The turret of a PHASE move (R74). -/
structure TurretGoal where
  target   : TurretPos
  progress : AxisProgress
  deriving DecidableEq, Repr

/-- Kind of a move (R74). -/
inductive MoveKind where
  | phase
  | point
  | view
  deriving DecidableEq, Repr

/-- Condition of a move (R74). -/
inductive MoveCond where
  | claiming
  | driving
  | ended
  | endedStopped
  deriving DecidableEq, Repr

/-- The move record (R74). `claimless`: no claim was put, and the report is a separate event (R74, R87). -/
structure Move where
  kind      : MoveKind
  seq       : Option Seq
  turret    : Option TurretGoal
  x         : Option AxisGoal
  y         : Option AxisGoal
  f         : Option AxisGoal
  cond      : MoveCond
  stopMark  : Bool
  faultMark : Bool
  claimless : Bool
  deriving DecidableEq, Repr

/-- A focus step in hand (R84): its target, and whether it is the step to the present height that needs no command. -/
structure FocusStep where
  target : Int
  noop   : Bool
  deriving DecidableEq, Repr

/-- The ADU (R89); the Tool Table is the configuration's (R73). -/
structure Adu where
  turret      : Turret
  homingCount : Nat
  gap         : Timer
  indexStamp  : Stamp
  indexHome   : Bool
  x           : AxisState
  y           : AxisState
  f           : AxisState
  memory      : Vector Int 6
  move        : Option Move
  step        : Option FocusStep
  deriving DecidableEq, Repr

/-! ### Load Unit (chapter 5) -/

/-- The load phases (R94). -/
inductive LoadPhase where
  | rest
  | waitGrant
  | approach
  | loading
  | dwell
  | unloading
  | retract
  deriving DecidableEq, Repr

/-- The order in hand (R94, R95). -/
structure IndentOrder where
  seq   : Seq
  force : Nat
  dwell : Nat
  deriving DecidableEq, Repr

/-- The declaration of contact (R94, R97). -/
structure Contact where
  pos   : Nat
  force : Int
  deriving DecidableEq, Repr

/-- The RAMPSLOW timer, with the limit it started with (R99). -/
structure RampTimer where
  start : Stamp
  limit : Nat
  deriving DecidableEq, Repr

/-- The LDU (R90 to R94, R111). `word` is the force word last taken; `abort` is the unload kind; `cause` is the end
cause, one of the seven indent reasons or `halted`. -/
structure Ldu where
  window     : List Sample
  word       : Int
  tare       : Int
  touching   : Bool
  runCount   : Nat
  phase      : LoadPhase
  abort      : Bool
  order      : Option IndentOrder
  pos        : Nat
  contact    : Option Contact
  rampStamp  : Stamp
  rampForce  : Int
  sum        : BitVec 48
  count      : BitVec 32
  peak       : Int
  excursions : Nat
  inBand     : Bool
  dwellDone  : Bool
  cause      : Option Reason
  part       : Option IndentPart
  step       : Timer
  rampSlow   : Option RampTimer
  dwell      : Timer
  silence    : Timer
  deriving DecidableEq, Repr

/-! ### Row Intake Unit (chapter 6) -/

/-- State of a bank (R115). -/
inductive BankState where
  | free
  | target
  | filled
  | measuring
  deriving DecidableEq, Repr

/-- A Bank Tag (R115). -/
structure BankTag where
  state  : BankState
  owner  : Option Seq
  serial : Option Nat
  hold   : Bool
  expiry : Stamp
  deriving DecidableEq, Repr

/-- A row in the Row Queue: its camera row number and its pixels in physical order (R113). -/
structure QueuedRow where
  number : Nat
  pixels : List Byte
  deriving DecidableEq, Repr

/-- The memory port: FREE, or BUSY with a row write or a readout (R117). `live` is cleared when the capture of the row
being written ends (R117). -/
inductive Port where
  | free
  | write (live : Bool)
  | read
  deriving DecidableEq, Repr

/-- Who had the last turn at the port (R117). -/
inductive PortUser where
  | writer
  | readout
  deriving DecidableEq, Repr

/-- Search kind of a capture (R33, R140). -/
inductive SearchKind where
  | full
  | short
  deriving DecidableEq, Repr

/-- Capture conditions (R119). -/
inductive CaptureCond where
  | waitLamp
  | waitBank
  | claiming
  | stepping
  | awaitFrame
  | framing
  deriving DecidableEq, Repr

/-- The capture record (R119). `stamp` is the stamp of the frame start last taken (R112); `arriving`: the camera frame
now arriving is the taken frame (R112). -/
structure Capture where
  seq       : Seq
  objective : TurretPos
  windowTop : Nat
  edge      : EdgeMode
  search    : SearchKind
  bank      : Option BankId
  cond      : CaptureCond
  abandon   : Bool
  stamp     : Stamp
  arriving  : Bool
  deriving DecidableEq, Repr

/-- A readout taken and not yet completed (R126). -/
structure Readout where
  sender : Station
  seq    : Seq
  bank   : BankId
  row    : Nat
  col    : Nat
  count  : Nat
  deriving DecidableEq, Repr

/-- The RIU (R129); the banks' pixels are `State.mem`. -/
structure Riu where
  rowCount : Option Nat
  rows     : List QueuedRow
  peakFill : Nat
  tags     : Vector BankTag 2
  counter  : Nat
  port     : Port
  lastTurn : PortUser
  capture  : Option Capture
  camera   : Timer
  readout  : Option Readout
  curRow   : Nat
  curCol   : Nat
  lamp     : Nat
  warmup   : Timer
  deriving DecidableEq, Repr

/-! ### Edge Unit (chapter 7) -/

/-- A present Row Edge Table entry (R130, R136). -/
structure RowEdge where
  runs  : Nat
  left  : Nat
  right : Nat
  deriving DecidableEq, Repr

/-- A present Column Edge Table entry; the edge not yet captured is absent until its run ends (R138). -/
structure ColEdge where
  top    : Option Nat
  bottom : Option Nat
  deriving DecidableEq, Repr

/-- A bank's frame results (R130). -/
structure FrameResults where
  rows : Vector (Option RowEdge) 256
  cols : Vector (Option ColEdge) 256
  peak : Nat
  deriving DecidableEq, Repr

/-- The last row taken, in logical column order, with its threshold (R130). -/
structure PreviousRow where
  pixels    : List Byte
  threshold : Nat
  deriving DecidableEq, Repr

/-- A column state (R130): run length, the starting crossing of the run, the qualified mark. -/
structure ColState where
  run       : Nat
  edge      : Option Nat
  qualified : Bool
  deriving DecidableEq, Repr

/-- Kind of the frame in hand (R130, R131). -/
inductive FrameKind where
  | search
  | final
  deriving DecidableEq, Repr

/-- The decision of a focus search (R140, R142). -/
inductive Decision where
  | undecided
  | best (index : Nat)
  | focusPoor
  deriving DecidableEq, Repr

/-- The focus search record (R140). -/
structure Search where
  kind     : SearchKind
  centre   : Int
  heights  : List Int
  index    : Nat
  scores   : List Nat
  decision : Decision
  deriving DecidableEq, Repr

/-- The EGU (R130, R144). -/
structure Egu where
  results : Vector FrameResults 2
  history : List Nat
  prev    : Option PreviousRow
  cols    : Vector ColState 256
  runPeak : Nat
  energy  : Nat
  kind    : Option FrameKind
  search  : Option Search
  deriving DecidableEq, Repr

/-! ### Gauge Unit (chapter 8) -/

/-- The measurement record (R145): everything the measurement needs, copied in at the handover. -/
structure Measurement where
  seq       : Seq
  bank      : BankId
  tool      : ToolKind
  scale     : Nat
  revRow    : Bool
  windowTop : Nat
  force     : Int
  low       : Option Nat
  high      : Option Nat
  x         : Int
  y         : Int
  values    : CaptureValues
  asymmetry : Nat
  spacing   : Nat
  deriving DecidableEq, Repr

/-! ### Report Unit (chapter 10) -/

/-- NOTICE state (R173). -/
inductive NoticeState where
  | idle
  | pending
  | sending
  deriving DecidableEq, Repr

/-- The RPU (R176). The flags are the six group bytes of R172; the counters stand in the order of R174. -/
structure Rpu where
  flags     : Vector Byte 6
  notice    : NoticeState
  renew     : Bool
  counters  : Vector Nat 10
  snapshots : Vector Nat 10
  deriving DecidableEq, Repr

/-! ### The station -/

/-- Station phase (R177). -/
inductive StationPhase where
  | unconfigured
  | ready
  | parked
  | resetting
  deriving DecidableEq, Repr

/-- What every block reads and none writes: the station number, the timebase and the configuration in force. -/
structure Site where
  station : Station
  now     : Stamp
  cfg     : Settings
  deriving DecidableEq, Repr

/-- What the blocks own. `resetSender` is the sender of a RESETSTN whose answer is still reserved (R181). -/
structure Blocks where
  phase       : StationPhase
  resetSender : Option Station
  lki         : Lki
  bcu         : Bcu
  rsq         : Rsq
  adu         : Adu
  ldu         : Ldu
  riu         : Riu
  egu         : Egu
  ggu         : Option Measurement
  rpu         : Rpu
  deriving DecidableEq, Repr

/-- The whole machine. `held` and `received` are the configuration store of R178; `mem` the banks' pixels; `pending`
the commands that wait, first in first out; `free` is the model's own: it counts the free values taken (log 23). -/
structure State where
  site     : Site
  blk      : Blocks
  held     : Settings
  received : Vector Bool 6
  mem      : Memory
  pending  : List Instr
  free     : Nat
  deriving DecidableEq, Repr

/-- Faults. No command of the part stops a step, so there is none. -/
inductive Fault where
  deriving DecidableEq, Repr

/-- Refusals. Every command of the table has a meaning, so no arm of `exec` answers one. -/
inductive Refusal where
  /-- A command without a meaning, by its mnemonic; raised only by an arm of `exec`. Safe. -/
  | notModelled (mnemonic : String)
  deriving DecidableEq, Repr

/-! ### After a pin reset -/

/-- R167. -/
def Lki.reset : Lki :=
  { synced := false, recv := [], placed := [], reserved := 0, slot := none, tx := .idle }

/-- A Peer Table entry never heard (R70). -/
def PeerEntry.absent : PeerEntry :=
  { announced := .absent, run := none, work := none, stamp := none }

/-- The own Peer Table entry after a pin reset (R70). -/
def PeerEntry.ownReset : PeerEntry :=
  { announced := .heard .idle, run := some .empty, work := none, stamp := some 0 }

def StuckWatch.off : StuckWatch :=
  { timer := none, stuck := false }

/-- R70, for the station `own`. The line levels are the bench's: the caller says how they stand. -/
def Bcu.reset (own : Station) (quietIn motionIn : Bool) : Bcu :=
  { own := .idle, quietIn := quietIn, motionIn := motionIn, claims := [], waiting := []
    peers := (Vector.replicate 16 PeerEntry.absent).set own PeerEntry.ownReset
    benchQueue := [], sense := none, settle := none, refresh := none
    quietStuck := StuckWatch.off, motionStuck := StuckWatch.off, clash := false }

/-- R26, R27. -/
def Rsq.reset : Rsq :=
  { points := [], orderList := [], groupList := [], group := none, phase := none, next := none, now := none, last := none
    moveInFlight := none, stageAt := none, focusFound := false, resultQueue := [], run := .empty, owner := none
    draining := false }

/-- A stage axis or the focus after a pin reset: unknown, position 0 (R89). -/
def AxisState.reset : AxisState :=
  { pos := 0, known := false, timer := none, cmd := none }

/-- R89. -/
def Adu.reset : Adu :=
  { turret := .unknown, homingCount := 0, gap := none, indexStamp := 0, indexHome := false, x := AxisState.reset
    y := AxisState.reset, f := AxisState.reset, memory := Vector.replicate 6 0, move := none, step := none }

/-- R111. In band and dwell complete, which its table leaves out, are clear (log 1). -/
def Ldu.reset : Ldu :=
  { window := List.replicate 16 0, word := 0, tare := 0, touching := false, runCount := 0, phase := .rest, abort := false
    order := none, pos := 0, contact := none, rampStamp := 0, rampForce := 0, sum := 0, count := 0, peak := 0
    excursions := 0, inBand := false, dwellDone := false, cause := none, part := none, step := none, rampSlow := none
    dwell := none, silence := none }

/-- A Bank Tag after a pin reset (R129). -/
def BankTag.free : BankTag :=
  { state := .free, owner := none, serial := none, hold := false, expiry := 0 }

/-- R129. The warm-up starts at pin reset, where the timebase is 0 (R128, R182). -/
def Riu.reset : Riu :=
  { rowCount := none, rows := [], peakFill := 0, tags := Vector.replicate 2 BankTag.free, counter := 0, port := .free
    lastTurn := .readout, capture := none, camera := none, readout := none, curRow := 0, curCol := 0, lamp := 32
    warmup := some 0 }

def FrameResults.cleared : FrameResults :=
  { rows := Vector.replicate 256 none, cols := Vector.replicate 256 none, peak := 0 }

def ColState.cleared : ColState :=
  { run := 0, edge := none, qualified := false }

/-- R144. -/
def Egu.reset : Egu :=
  { results := Vector.replicate 2 FrameResults.cleared, history := [], prev := none
    cols := Vector.replicate 256 ColState.cleared, runPeak := 0, energy := 0, kind := none, search := none }

/-- R176. -/
def Rpu.reset : Rpu :=
  { flags := Vector.replicate 6 0, notice := .idle, renew := false, counters := Vector.replicate 10 0
    snapshots := Vector.replicate 10 0 }

/-- Every block after a pin reset of the station `own` (R177). -/
def Blocks.reset (own : Station) (quietIn motionIn : Bool) : Blocks :=
  { phase := .unconfigured, resetSender := none, lki := Lki.reset, bcu := Bcu.reset own quietIn motionIn, rsq := Rsq.reset
    adu := Adu.reset, ldu := Ldu.reset, riu := Riu.reset, egu := Egu.reset, ggu := none, rpu := Rpu.reset }

/-- The site after a pin reset that reads `own` from the strap pins (R177, R182). -/
def Site.reset (own : Station) : Site :=
  { station := own, now := 0, cfg := Settings.cleared }

/-- The machine right after a pin reset. The strap value 0, the released lines and the banks' zero pixels are the
model's (log 1, log 2), and so is the counter of free values (log 23). -/
def State.reset : State :=
  { site := Site.reset 0, blk := Blocks.reset 0 false false, held := Settings.cleared
    received := Vector.replicate 6 false, mem := [], pending := [], free := 0 }

end Sys2Proof.Machine
end

