-- ==== Sys2Proof/Machine/Arith.lean ====
section
/-! DEFINITION. Shared arithmetic: rounding (R1, R90), clamping (R1), timer tests (R182), bit and byte helpers (R169). -/

namespace Sys2Proof.Machine

/-- `n` divided by `d`, rounded half up in the signed sense: to the nearest integer, a half to the larger one (R90). -/
def roundHalfUp (n : Int) (d : Nat) : Int :=
  (2 * n + d) / (2 * d)

/-- The same for quantities that are never negative (R1). -/
def roundHalfUpNat (n d : Nat) : Nat :=
  (2 * n + d) / (2 * d)

/-- `v` kept within `lo` to `hi` (R1, Saturation). -/
def clampInt (lo hi v : Int) : Int :=
  if v < lo then lo else if hi < v then hi else v

/-- A focus height kept within 0 to 20,000 (R74, R84, R140). -/
def clampHeight (h : Int) : Int :=
  clampInt 0 20000 h

/-- Ticks from `start` to `now`, modulo 2^32 (R182). -/
def elapsed (now start : Stamp) : Nat :=
  (now - start).toNat

/-- A timer is due when it runs and `limit` ticks have gone since its starting stamp (R182, log 5). -/
def Timer.due (t : Timer) (now : Stamp) (limit : Nat) : Bool :=
  match t with
  | none => false
  | some start => decide (limit ≤ elapsed now start)

/-- `n` sent most significant byte first in two bytes (R169). -/
def be16 (n : Nat) : List Byte :=
  [BitVec.ofNat 8 (n / 256), BitVec.ofNat 8 n]

/-- `n` sent most significant byte first in four bytes (R169). -/
def be32 (n : Nat) : List Byte :=
  [BitVec.ofNat 8 (n / 16777216), BitVec.ofNat 8 (n / 65536), BitVec.ofNat 8 (n / 256), BitVec.ofNat 8 n]

/-- A signed field of two bytes, two's complement (R169). -/
def be16s (z : Int) : List Byte :=
  be16 (z % 65536).toNat

/-- The number two bytes spell, most significant first (R169). -/
def nat16 (hi lo : Byte) : Nat :=
  hi.toNat * 256 + lo.toNat

/-- The number four bytes spell, most significant first (R169). -/
def nat32 (a b c d : Byte) : Nat :=
  ((a.toNat * 256 + b.toNat) * 256 + c.toNat) * 256 + d.toNat

/-- Two bytes as a two's complement number (R169). -/
def int16 (hi lo : Byte) : Int :=
  let n := nat16 hi lo
  if n < 32768 then n else (n : Int) - 65536

/-- Four bytes as a two's complement number (R169). -/
def int32 (a b c d : Byte) : Int :=
  let n := nat32 a b c d
  if n < 2147483648 then n else (n : Int) - 4294967296

/-- A byte with bit `i` set when `c` holds. -/
def bitIf (i : Nat) (c : Bool) : Byte :=
  if c then BitVec.ofNat 8 (2 ^ i) else 0

/-- An optional sequence number or serial, sent as 0 when absent (R169). -/
def optNat (o : Option Nat) : Nat :=
  o.getD 0

end Sys2Proof.Machine
end

