-- ==== Sys2Proof/Machine/Ops.lean ====
section
/-! DEFINITION. The named operations over the bank memory, the lists of the RSQ and the fields of the state that the
blocks' functions share. The part has no exception entry: an axis fault, an error flag and a drain are effects on State. -/

namespace Sys2Proof.Machine

/-! ### The pixels of the two banks (R115, R116) -/

/-- What an address not listed reads as (log 2). -/
def Memory.blank : Byte := 0

/-- The address of a pixel: bank, logical row, logical column (R115, R116). -/
def pixelAddress (bank : BankId) (row col : Nat) : Nat :=
  bank.val * 65536 + row * 256 + col

/-- The byte at an address. -/
def Memory.read (m : Memory) (a : Nat) : Byte :=
  match m with
  | [] => Memory.blank
  | c :: rest => if c.1 = a then c.2 else Memory.read rest a

/-- The listed cells of a run of bytes that starts at `base`. -/
def Memory.cells (base : Nat) (bytes : List Byte) : Memory :=
  match bytes with
  | [] => []
  | b :: rest => if b = Memory.blank then Memory.cells (base + 1) rest else (base, b) :: Memory.cells (base + 1) rest

/-- `m` with `bytes` stored from `base` upward. -/
def Memory.writeRun (m : Memory) (base : Nat) (bytes : List Byte) : Memory :=
  m.filter (fun c => decide (c.1 < base)) ++ Memory.cells base bytes
    ++ m.filter (fun c => decide (base + bytes.length ≤ c.1))

/-- The canonical form: addresses strictly rising, every listed address at or above `lo`, no listed byte blank. -/
def Memory.wfFrom (lo : Nat) (m : Memory) : Bool :=
  match m with
  | [] => true
  | c :: rest => decide (lo ≤ c.1) && decide (c.2 ≠ Memory.blank) && Memory.wfFrom (c.1 + 1) rest

/-- The canonical form of the bank memory. -/
def Memory.wf (m : Memory) : Bool :=
  Memory.wfFrom 0 m

/-- Pixels read in logical order from a position: column 255 goes on to column 0 of the next row, row 255 to row 0 (R126). -/
def Memory.readPixels (m : Memory) (bank : BankId) (row col : Nat) (count : Nat) : List Byte :=
  (List.range count).map fun k =>
    Memory.read m (pixelAddress bank ((row + (col + k) / 256) % 256) ((col + k) % 256))

/-! ### Point records (R2 to R6) -/

/-- The record of a seq. -/
def Rsq.find (r : Rsq) (q : Seq) : Option Point :=
  r.points.find? fun p => p.plan.seq == q

/-- The state of the record of a seq. -/
def Rsq.stateOf (r : Rsq) (q : Seq) : Option PointState :=
  (r.find q).map fun p => p.progress.state

/-- The record of `q` changed by `f`; every other record as it was. -/
def Rsq.modify (r : Rsq) (q : Seq) (f : Point → Point) : Rsq :=
  { r with points := r.points.map fun p => if p.plan.seq = q then f p else p }

/-- A record whose state becomes `st`. -/
def Point.withState (st : PointState) (p : Point) : Point :=
  { p with progress := { p.progress with state := st } }

/-- A record that reaches a terminal state with its reason (R6, R7). -/
def Point.withEnd (st : PointState) (reason : Option Reason) (p : Point) : Point :=
  { p with progress := { p.progress with state := st, reason := reason } }

/-- WAITING or INDENTED: the states that still have work (R12). -/
def PointState.open_ (st : PointState) : Bool :=
  match st with
  | .waiting | .indented => true
  | .indenting | .viewing | .measuring | .done | .failed | .cancelled => false

/-- DONE, FAILED or CANCELLED (R6). -/
def PointState.terminal (st : PointState) : Bool :=
  match st with
  | .done | .failed | .cancelled => true
  | .waiting | .indenting | .indented | .viewing | .measuring => false

/-- A WAITING or INDENTED record is present (R12, R21). -/
def Rsq.hasWork (r : Rsq) : Bool :=
  r.points.any fun p => p.progress.state.open_

/-- The seq is in a pipeline slot (R19). -/
def Rsq.inSlot (r : Rsq) (q : Seq) : Bool :=
  (r.next.map (·.seq) == some q) || (r.now.map (·.seq) == some q) || (r.last.map (·.seq) == some q)

/-- The seq's record is FAILED, DONE or CANCELLED: the seq joins the tail of the Result Queue (R11). -/
def Rsq.enqueueResult (r : Rsq) (q : Seq) : Rsq :=
  { r with resultQueue := r.resultQueue ++ [q] }

/-- The members of the Group List and `q`, in group order (R40). -/
def Rsq.returnToGroup (r : Rsq) (q : Seq) : Rsq :=
  match r.group with
  | none => { r with groupList := r.groupList ++ [q] }
  | some g => { r with groupList := g.order.filter fun m => m == q || r.groupList.contains m }

/-! ### Fields of one block at a time -/

def Blocks.withRsq (b : Blocks) (r : Rsq) : Blocks := { b with rsq := r }
def Blocks.withAdu (b : Blocks) (a : Adu) : Blocks := { b with adu := a }
def Blocks.withLdu (b : Blocks) (l : Ldu) : Blocks := { b with ldu := l }
def Blocks.withRiu (b : Blocks) (r : Riu) : Blocks := { b with riu := r }
def Blocks.withEgu (b : Blocks) (e : Egu) : Blocks := { b with egu := e }
def Blocks.withBcu (b : Blocks) (c : Bcu) : Blocks := { b with bcu := c }
def Blocks.withLki (b : Blocks) (l : Lki) : Blocks := { b with lki := l }
def Blocks.withRpu (b : Blocks) (r : Rpu) : Blocks := { b with rpu := r }

/-- A state whose blocks become `b`: site, configuration store, pixels and queue as they were. -/
def State.withBlk (s : State) (b : Blocks) : State := { s with blk := b }

end Sys2Proof.Machine
end

