-- ==== Sys2Proof/Machine/Flags.lean ====
section
/-! DEFINITION. The Report Unit: the nineteen notice flags (R172), the NOTICE state (R173) and the ten counters (R174). -/

namespace Sys2Proof.Machine

/-- The nineteen notice flags (R172). -/
inductive Notice where
  | peerLost
  | lineStuck
  | numberClash
  | withdrawn
  | turretFault
  | stageFault
  | focusFault
  | loadFail
  | forceSat
  | lowLight
  | rowLost
  | holdExpired
  | camSilent
  | groupDone
  | runHalted
  | runFinished
  | rxDropped
  | crcError
  | countFull
  deriving DecidableEq, Repr

/-- The group of a flag, in the order BENCH, DRIVE, LOAD, IMAGE, RUN, LINK (R172). -/
def Notice.group (n : Notice) : Fin 6 :=
  match n with
  | .peerLost | .lineStuck | .numberClash | .withdrawn => 0
  | .turretFault | .stageFault | .focusFault => 1
  | .loadFail | .forceSat => 2
  | .lowLight | .rowLost | .holdExpired | .camSilent => 3
  | .groupDone | .runHalted | .runFinished => 4
  | .rxDropped | .crcError | .countFull => 5

/-- The bit of a flag in its group's byte (R172). -/
def Notice.bit (n : Notice) : Nat :=
  match n with
  | .peerLost | .turretFault | .loadFail | .lowLight | .groupDone | .rxDropped => 0
  | .lineStuck | .stageFault | .forceSat | .rowLost | .runHalted | .crcError => 1
  | .numberClash | .focusFault | .holdExpired | .runFinished | .countFull => 2
  | .withdrawn | .camSilent => 3

/-- The ten counters (R174). -/
inductive Counter where
  | pointsDone
  | pointsFailed
  | recaptures
  | rowsLost
  | excursions
  | withdrawals
  | peersLost
  | stuckEvents
  | rxDropped
  | crcErrors
  deriving DecidableEq, Repr

/-- The place of a counter in the order of R174. -/
def Counter.index (c : Counter) : Fin 10 :=
  match c with
  | .pointsDone => 0
  | .pointsFailed => 1
  | .recaptures => 2
  | .rowsLost => 3
  | .excursions => 4
  | .withdrawals => 5
  | .peersLost => 6
  | .stuckEvents => 7
  | .rxDropped => 8
  | .crcErrors => 9

/-- Whether a flag is set. -/
def Rpu.isSet (r : Rpu) (n : Notice) : Bool :=
  r.flags[n.group].getLsbD n.bit

/-- A flag of an enabled group becomes set (R173, first three rows). -/
def Rpu.becamePending (r : Rpu) : Rpu :=
  match r.notice with
  | .idle => { r with notice := .pending }
  | .pending => r
  | .sending => { r with renew := true }

/-- The cause of a flag: the flag is set; if it was clear and its group is enabled, the NOTICE is affected (R172, R173). -/
def Rpu.raise (enables : Byte) (r : Rpu) (n : Notice) : Rpu :=
  if r.isSet n then r
  else
    let r' := { r with flags := r.flags.set n.group (r.flags[n.group] ||| bitIf n.bit true) }
    if enables.getLsbD n.group then r'.becamePending else r'

/-- The cause of a counter: it rises by one, stays at 65,535, and raises COUNTFULL as it reaches it (R174). -/
def Rpu.count (enables : Byte) (r : Rpu) (c : Counter) : Rpu :=
  let v := r.counters[c.index]
  if 65535 ≤ v then r
  else
    let r' := { r with counters := r.counters.set c.index (v + 1) }
    if v + 1 = 65535 then r'.raise enables .countFull else r'

/-- The group summary: a bit for each group that has a flag set (R172). -/
def Rpu.summary (r : Rpu) : Byte :=
  bitIf 0 (r.flags[0] ≠ 0) ||| bitIf 1 (r.flags[1] ≠ 0) ||| bitIf 2 (r.flags[2] ≠ 0)
    ||| bitIf 3 (r.flags[3] ≠ 0) ||| bitIf 4 (r.flags[4] ≠ 0) ||| bitIf 5 (r.flags[5] ≠ 0)

/-- CLEARNOTE: the flags whose mask bit is 1 are cleared, one mask byte per group (R172). -/
def Rpu.clearFlags (r : Rpu) (mask : List Byte) : Rpu :=
  { r with flags := Vector.ofFn fun g : Fin 6 => r.flags[g] &&& ~~~ (mask.getD g 0) }

/-- READCOUNT with take 1: each snapshot takes its counter, each counter becomes 0 (R174). -/
def Rpu.takeCounts (r : Rpu) : Rpu :=
  { r with snapshots := r.counters, counters := Vector.replicate 10 0 }

/-- The NOTICE wins the medium (R173). -/
def Rpu.noticeWins (r : Rpu) : Rpu :=
  match r.notice with
  | .pending => { r with notice := .sending }
  | .idle | .sending => r

/-- The NOTICE is abandoned (R161, R173). One abandoned after the RESETSTN clearing is dropped, its state as it stands (log 40). -/
def Rpu.noticeAbandoned (r : Rpu) : Rpu :=
  match r.notice with
  | .sending => { r with notice := .pending }
  | .idle | .pending => r

/-- The NOTICE passes (R173). One that passes after the RESETSTN clearing finds NONE and leaves NONE (R176), or PENDING when a flag has
become set since (log 40). -/
def Rpu.noticePasses (r : Rpu) : Rpu :=
  match r.notice with
  | .sending => { r with notice := if r.renew then .pending else .idle, renew := false }
  | .idle | .pending => r

/-- A block raises a notice. -/
def raise (e : Site) (n : Notice) (b : Blocks) : Blocks :=
  b.withRpu (b.rpu.raise e.cfg.bench.enables n)

/-- A block counts. -/
def count (e : Site) (c : Counter) (b : Blocks) : Blocks :=
  b.withRpu (b.rpu.count e.cfg.bench.enables c)

/-- Whether a condition flag's edge selection is BOTH: bit 0 PEERLOST, bit 1 LINESTUCK (R172, R178). -/
def edgeBoth (e : Site) (n : Notice) : Bool :=
  e.cfg.bench.edges.getLsbD n.bit

/-- A condition begins or ends: its flag's cause at the beginning, and at the end under BOTH (R172). -/
def conditionEdge (e : Site) (n : Notice) (before after : Bool) (b : Blocks) : Blocks :=
  if !before && after then raise e n b
  else if before && !after && edgeBoth e n then raise e n b
  else b

end Sys2Proof.Machine
end

