-- ==== Sys2Proof/Machine/Link.lean ====
section
/-! DEFINITION. Frames of the bench link bit by bit (R159), the CRC, and the collections of the Link Interface: Receive
Buffer, Answer Queue, STATE slot and transmitter (R164 to R166). -/

namespace Sys2Proof.Machine

/-! ### Frames (R159) -/

/-- The five frame kinds, with the codes of R159. -/
inductive LinkKind where
  | state
  | ask
  | ans
  | result
  | notice
  deriving DecidableEq, Repr

/-- Code of a kind (R159). -/
def LinkKind.code (k : LinkKind) : BitVec 3 :=
  match k with
  | .state => 0
  | .ask => 1
  | .ans => 2
  | .result => 3
  | .notice => 4

/-- The class a kind is sent in (R159). -/
def LinkKind.cls (k : LinkKind) : BitVec 2 :=
  match k with
  | .state => 0
  | .ans | .result | .notice => 1
  | .ask => 2

/-- The kind of a code (R159). -/
def LinkKind.ofCode (n : Nat) : Option LinkKind :=
  match n with
  | 0 => some .state
  | 1 => some .ask
  | 2 => some .ans
  | 3 => some .result
  | 4 => some .notice
  | _ => none

/-- A frame between its start mark and its CRC (R159); its class follows from its kind, its length from its payload. -/
structure Frame where
  sender  : Station
  kind    : LinkKind
  dest    : Station
  payload : List Byte
  deriving DecidableEq, Repr

/-- The bits of a field, most significant first (R159). -/
def fieldBits {w : Nat} (x : BitVec w) : List Bool :=
  (List.range w).map fun i => x.getMsbD i

/-- The number some bits spell, most significant first. -/
def bitsValue (bits : List Bool) : Nat :=
  bits.foldl (fun n b => 2 * n + b.toNat) 0

/-- The bytes some bits spell, most significant first; bits that do not fill a byte spell none. -/
def bytesOf (count : Nat) (bits : List Bool) : List Byte :=
  match count with
  | 0 => []
  | k + 1 => BitVec.ofNat 8 (bitsValue (bits.take 8)) :: bytesOf k (bits.drop 8)

/-- One bit into the CRC register: divisor x^16 + x^15 + x^2 + 1 (R159, log 10). -/
def crcStep (c : BitVec 16) (b : Bool) : BitVec 16 :=
  if (c.msb ^^ b) then (c <<< 1) ^^^ 0x8005#16 else c <<< 1

/-- The CRC over some bits: start all ones, no final inversion (R159). -/
def crc16 (bits : List Bool) : BitVec 16 :=
  bits.foldl crcStep 0xFFFF#16

/-- The fields from class to the end of the payload (R159). -/
def Frame.body (f : Frame) : List Bool :=
  fieldBits f.kind.cls ++ fieldBits (BitVec.ofNat 4 f.sender) ++ fieldBits f.kind.code
    ++ fieldBits (BitVec.ofNat 4 f.dest) ++ fieldBits (BitVec.ofNat 8 f.payload.length)
    ++ f.payload.flatMap fieldBits

/-- The bits of a frame from class to CRC (R159). -/
def Frame.bits (f : Frame) : List Bool :=
  f.body ++ fieldBits (crc16 f.body)

/-- Codes of the announced states (R159). -/
def Announce.code (a : Announce) : Nat :=
  match a with
  | .idle => 0
  | .waitMove => 1
  | .moving => 2
  | .settling => 3
  | .waitQuiet => 4
  | .quiet => 5

/-- The announced state of a code (R159). -/
def Announce.ofCode (n : Nat) : Option Announce :=
  match n with
  | 0 => some .idle
  | 1 => some .waitMove
  | 2 => some .moving
  | 3 => some .settling
  | 4 => some .waitQuiet
  | 5 => some .quiet
  | _ => none

/-- Codes of the run states (R159). -/
def RunState.code (r : RunState) : Nat :=
  match r with
  | .empty => 0
  | .loaded => 1
  | .running => 2
  | .stopping => 3
  | .halted => 4
  | .finished => 5

/-- The run state of a code (R159). -/
def RunState.ofCode (n : Nat) : Option RunState :=
  match n with
  | 0 => some .empty
  | 1 => some .loaded
  | 2 => some .running
  | 3 => some .stopping
  | 4 => some .halted
  | 5 => some .finished
  | _ => none

/-- The payload of a STATE frame (R159). -/
def StateFrame.payload (f : StateFrame) : List Byte :=
  [BitVec.ofNat 8 f.announced.code, BitVec.ofNat 8 f.run.code] ++ be16 (optNat f.work)

/-- What a STATE frame's payload says; none when it is not well formed (R159). -/
def StateFrame.ofPayload (p : List Byte) : Option StateFrame :=
  match p with
  | [a, r, hi, lo] =>
    match Announce.ofCode a.toNat, RunState.ofCode r.toNat with
    | some announced, some run =>
      some { announced := announced, run := run, work := if nat16 hi lo = 0 then none else some (nat16 hi lo) }
    | _, _ => none
  | _ => none

/-- The form tests of R159 that do not concern the bit counts: at most 40 payload bytes, a STATE frame's payload legal. -/
def Frame.contentOk (f : Frame) : Bool :=
  decide (f.payload.length ≤ 40) && (f.kind != .state || (StateFrame.ofPayload f.payload).isSome)

/-- The checks of R162 on received bits: CRC and form (R159). A frame that fails either is none. -/
def Frame.parse (bits : List Bool) : Option Frame :=
  if bits.length < 37 then none
  else
    let body := bits.take (bits.length - 16)
    if fieldBits (crc16 body) ≠ bits.drop (bits.length - 16) then none
    else
      match LinkKind.ofCode (bitsValue ((body.drop 6).take 3)) with
      | none => none
      | some kind =>
        let len := bitsValue ((body.drop 13).take 8)
        let f : Frame :=
          { sender := Fin.ofNat 16 (bitsValue ((body.drop 2).take 4)), kind := kind
            dest := Fin.ofNat 16 (bitsValue ((body.drop 9).take 4)), payload := bytesOf len (body.drop 21) }
        if bitsValue (body.take 2) = kind.cls.toNat ∧ body.length = 21 + 8 * len ∧ f.contentOk = true then some f else none

/-- The frame a station sends (R159, R165, R173, R175); a STATE frame's destination is sent as 0. -/
def OutFrame.toFrame (own : Station) (o : OutFrame) : Frame :=
  match o with
  | .state f => { sender := own, kind := .state, dest := 0, payload := f.payload }
  | .answer a => { sender := own, kind := .ans, dest := a.dest, payload := a.payload }
  | .notice dest payload => { sender := own, kind := .notice, dest := dest, payload := payload }
  | .result _ dest payload _ => { sender := own, kind := .result, dest := dest, payload := payload }

/-! ### Receive Buffer, Answer Queue, STATE slot -/

/-- The Answer Queue has a free place: fewer than 6 placed answers and reservations (R165). -/
def Lki.hasPlace (l : Lki) : Bool :=
  decide (l.placed.length + l.reserved < 6)

/-- An answer placed in a place that was reserved in the same event (R165). -/
def Lki.answer (l : Lki) (dest : Station) (payload : List Byte) : Lki :=
  { l with placed := l.placed ++ [{ dest := dest, payload := payload }] }

/-- An answer that comes later keeps its reservation meanwhile (R165). -/
def Lki.reserve (l : Lki) : Lki :=
  { l with reserved := l.reserved + 1 }

/-- The answer of a kept reservation: the reservation is released and the answer appended (R165). -/
def Lki.answerReserved (l : Lki) (dest : Station) (payload : List Byte) : Lki :=
  { l with placed := l.placed ++ [{ dest := dest, payload := payload }], reserved := l.reserved - 1 }

/-- The Result Queue is emptied: a RESULT in transmission no longer has an entry there (R175). -/
def Lki.detachResult (l : Lki) : Lki :=
  match l.tx with
  | .sending (.result q dest payload _) => { l with tx := .sending (.result q dest payload false) }
  | .sending (.state _) | .sending (.answer _) | .sending (.notice _ _) | .idle | .offering _ => l

/-- An answer placed by the owner of a request in its taking event. -/
def answer (dest : Station) (payload : List Byte) (b : Blocks) : Blocks :=
  b.withLki (b.lki.answer dest payload)

/-- An ASK addressed to this station joins the Receive Buffer, or is dropped when it holds 4 (R164). -/
def receiveAsk (e : Site) (r : Request) (b : Blocks) : Blocks :=
  if b.lki.recv.length < 4 then b.withLki { b.lki with recv := b.lki.recv ++ [r] }
  else raise e .rxDropped (count e .rxDropped b)

end Sys2Proof.Machine
end

