-- ==== Sys2Proof/Machine/Operands.lean ====
section
/-! DEFINITION. The operands of the requests: the payload of an ASK frame, its code, its length and its arguments (R168,
R169), and the contents of the six CONFIG sections with their ranges (R178). -/

namespace Sys2Proof.Machine

/-- Byte `i` of a payload. -/
def byteAt (p : List Byte) (i : Nat) : Nat :=
  (p.getD i 0).toNat

/-- A two-byte field at `i` (R169). -/
def nat16At (p : List Byte) (i : Nat) : Nat :=
  nat16 (p.getD i 0) (p.getD (i + 1) 0)

/-- A signed two-byte field at `i` (R169). -/
def int16At (p : List Byte) (i : Nat) : Int :=
  int16 (p.getD i 0) (p.getD (i + 1) 0)

/-- A four-byte field at `i` (R169). -/
def nat32At (p : List Byte) (i : Nat) : Nat :=
  nat32 (p.getD i 0) (p.getD (i + 1) 0) (p.getD (i + 2) 0) (p.getD (i + 3) 0)

/-- A signed four-byte field at `i` (R169). -/
def int32At (p : List Byte) (i : Nat) : Int :=
  int32 (p.getD i 0) (p.getD (i + 1) 0) (p.getD (i + 2) 0) (p.getD (i + 3) 0)

/-! ### Codes and lengths (R168, R169) -/

/-- The sixteen requests (R169). -/
inductive ReqCode where
  | config
  | addpt
  | droppt
  | run
  | halt
  | retest
  | clearplan
  | readpt
  | readrows
  | readstat
  | readpeers
  | readcount
  | clearnote
  | park
  | unpark
  | resetstn
  deriving DecidableEq, Repr

/-- The request of a code byte (R169). -/
def ReqCode.ofByte (n : Nat) : Option ReqCode :=
  match n with
  | 1 => some .config
  | 2 => some .addpt
  | 3 => some .droppt
  | 4 => some .run
  | 5 => some .halt
  | 6 => some .retest
  | 7 => some .clearplan
  | 8 => some .readpt
  | 9 => some .readrows
  | 10 => some .readstat
  | 11 => some .readpeers
  | 12 => some .readcount
  | 13 => some .clearnote
  | 14 => some .park
  | 15 => some .unpark
  | 16 => some .resetstn
  | _ => none

/-- The code byte of a request (R169). -/
def ReqCode.toByte (c : ReqCode) : Nat :=
  match c with
  | .config => 1
  | .addpt => 2
  | .droppt => 3
  | .run => 4
  | .halt => 5
  | .retest => 6
  | .clearplan => 7
  | .readpt => 8
  | .readrows => 9
  | .readstat => 10
  | .readpeers => 11
  | .readcount => 12
  | .clearnote => 13
  | .park => 14
  | .unpark => 15
  | .resetstn => 16

/-- The request a payload asks for; none for an empty payload or a byte 0 that is no code (R168). -/
def Request.code (r : Request) : Option ReqCode :=
  match r.payload with
  | [] => none
  | c :: _ => ReqCode.ofByte c.toNat

/-- The content length of a CONFIG section; none outside 1 to 6 (R178). -/
def sectionLength (n : Nat) : Option Nat :=
  match n with
  | 1 => some 9
  | 2 => some 30
  | 3 => some 30
  | 4 => some 16
  | 5 => some 15
  | 6 => some 16
  | _ => none

/-- The argument bytes of a request (R169); CONFIG's follow from the section named in byte 1. -/
def Request.argBytes (r : Request) (c : ReqCode) : Option Nat :=
  match c with
  | .config => if r.payload.length < 2 then none else (sectionLength (byteAt r.payload 1)).map (· + 1)
  | .addpt => some 23
  | .droppt => some 2
  | .halt => some 1
  | .retest => some 8
  | .readpt => some 3
  | .readrows => some 7
  | .readpeers => some 1
  | .readcount => some 1
  | .clearnote => some 6
  | .run | .clearplan | .readstat | .park | .unpark | .resetstn => some 0

/-- The payload length is the one R169 gives for the code. -/
def Request.lengthOk (r : Request) (c : ReqCode) : Bool :=
  match r.argBytes c with
  | none => false
  | some n => r.payload.length == n + 1

/-- Answer codes (R168). -/
inductive AnswerCode where
  | done
  | busy
  | badArg
  | badCode
  | full
  | duplicate
  | unknown
  | nothing
  | noFrame
  | notReady
  | badConfig
  deriving DecidableEq, Repr

/-- R168. -/
def AnswerCode.code (a : AnswerCode) : Byte :=
  match a with
  | .done => 0
  | .busy => 1
  | .badArg => 2
  | .badCode => 3
  | .full => 4
  | .duplicate => 5
  | .unknown => 6
  | .nothing => 7
  | .noFrame => 8
  | .notReady => 9
  | .badConfig => 10

/-- An answer's payload: the request code as received (0 for an empty payload), the answer code, any data (R168). -/
def answerPayload (r : Request) (a : AnswerCode) (data : List Byte) : List Byte :=
  r.payload.getD 0 0 :: a.code :: data

/-! ### Arguments (R169) -/

structure AddptArgs where
  seq       : Nat
  group     : Nat
  x         : Int
  y         : Int
  indenter  : Nat
  objective : Nat
  force     : Nat
  dwell     : Nat
  edge      : Nat
  presence  : Nat
  low       : Nat
  high      : Nat
  deriving DecidableEq, Repr

def AddptArgs.ofPayload (p : List Byte) : AddptArgs :=
  { seq := nat16At p 1, group := byteAt p 3, x := int32At p 4, y := int32At p 8, indenter := byteAt p 12
    objective := byteAt p 13, force := nat16At p 14, dwell := nat16At p 16, edge := byteAt p 18, presence := byteAt p 19
    low := nat16At p 20, high := nat16At p 22 }

structure RetestArgs where
  original : Nat
  seq      : Nat
  dx       : Int
  dy       : Int
  deriving DecidableEq, Repr

def RetestArgs.ofPayload (p : List Byte) : RetestArgs :=
  { original := nat16At p 1, seq := nat16At p 3, dx := int16At p 5, dy := int16At p 7 }

structure ReadrowsArgs where
  seq   : Nat
  row   : Nat
  col   : Nat
  count : Nat
  hold  : Nat
  deriving DecidableEq, Repr

def ReadrowsArgs.ofPayload (p : List Byte) : ReadrowsArgs :=
  { seq := nat16At p 1, row := nat16At p 3, col := byteAt p 5, count := byteAt p 6, hold := byteAt p 7 }

/-- The row value that names the cursor (R169). -/
def ReadrowsArgs.cursorRow : Nat := 65535

/-! ### CONFIG sections (R178) -/

/-- `v` lies from `lo` to `hi`. -/
def within (lo hi v : Nat) : Bool :=
  decide (lo ≤ v) && decide (v ≤ hi)

/-- `v` lies from `lo` to `hi`, signed. -/
def withinInt (lo hi v : Int) : Bool :=
  decide (lo ≤ v) && decide (v ≤ hi)

/-- Section 1; none when a field is out of range. -/
def BenchSection.ofPayload (p : List Byte) : Option BenchSection :=
  if within 1 8 (byteAt p 2) && within 20 2000 (nat16At p 3) && within 500 5000 (nat16At p 5) && within 2 30 (byteAt p 7)
      && within 0 15 (byteAt p 8) && within 0 63 (byteAt p 9) && within 0 3 (byteAt p 10) then
    some { moveBudget := byteAt p 2, settleMs := nat16At p 3, silenceMs := nat16At p 5, stuckS := byteAt p 7
           sink := Fin.ofNat 16 (byteAt p 8), enables := p.getD 9 0, edges := p.getD 10 0 }
  else none

/-- A tool kind's code (R178). -/
def ToolKind.ofByte (n : Nat) : Option ToolKind :=
  match n with
  | 0 => some .empty
  | 1 => some .vickers
  | 2 => some .knoop
  | 3 => some .objective
  | _ => none

/-- One tool position at byte `i`. Scale, orientation and focus start height of a position that is no OBJECTIVE are not
checked and are stored as 0. -/
def ToolEntry.ofPayload (p : List Byte) (i : Nat) : Option ToolEntry :=
  match ToolKind.ofByte (byteAt p i) with
  | none => none
  | some kind =>
    let x := int16At p (i + 1)
    let y := int16At p (i + 3)
    if withinInt (-20000) 20000 x && withinInt (-20000) 20000 y then
      if kind = .objective then
        if within 50 5000 (nat16At p (i + 5)) && within 0 3 (byteAt p (i + 7)) && within 0 20000 (nat16At p (i + 8)) then
          some { kind := kind, offX := x, offY := y, scale := nat16At p (i + 5), revCol := (p.getD (i + 7) 0).getLsbD 0
                 revRow := (p.getD (i + 7) 0).getLsbD 1, focusStart := nat16At p (i + 8) }
        else none
      else some { kind := kind, offX := x, offY := y, scale := 0, revCol := false, revRow := false, focusStart := 0 }
    else none

/-- Sections 2 and 3: three tool positions, from position `base`. -/
def toolsOfPayload (p : List Byte) (base : Nat) (tools : Vector ToolEntry 6) : Option (Vector ToolEntry 6) :=
  match ToolEntry.ofPayload p 2, ToolEntry.ofPayload p 12, ToolEntry.ofPayload p 22 with
  | some a, some b, some c =>
    some (Vector.ofFn fun i : Fin 6 =>
      if i.val = base then a else if i.val = base + 1 then b else if i.val = base + 2 then c else tools[i])
  | _, _, _ => none

/-- Section 4. -/
def LoadSection.ofPayload (p : List Byte) : Option LoadSection :=
  if within 1 65535 (nat16At p 2) && within 5 500 (nat16At p 4) && within 1 499 (nat16At p 6) && within 1 15 (byteAt p 8)
      && within 1 15 (byteAt p 9) && within 10 5000 (nat16At p 10) && within 5 100 (byteAt p 12)
      && within 0 255 (byteAt p 13) && within 1 8000 (nat16At p 14) && within 10 10000 (nat16At p 16) then
    some { scaleFactor := nat16At p 2, contactThreshold := nat16At p 4, releaseThreshold := nat16At p 6
           declareCount := byteAt p 8, releaseCount := byteAt p 9, rampRate := nat16At p 10, band := byteAt p 12
           excursionLimit := byteAt p 13, travelLimit := nat16At p 14, approachSpeed := nat16At p 16 }
  else none

/-- Section 5. -/
def ImageSection.ofPayload (p : List Byte) : Option ImageSection :=
  if [1, 4, 16, 64].contains (byteAt p 2) && [30, 40, 50, 60, 70].contains (byteAt p 3) && within 2 15 (byteAt p 4)
      && within 1 8 (byteAt p 7) && within 5 500 (nat16At p 12) && within 1 60 (byteAt p 14)
      && within 10 200 (byteAt p 15) && within 20 40 (byteAt p 16) then
    some { window := byteAt p 2, threshold := byteAt p 3, minRun := byteAt p 4, lightLow := byteAt p 5
           lightHigh := byteAt p 6, lightStep := byteAt p 7, minEnergy := nat32At p 8, focusStep := nat16At p 12
           holdS := byteAt p 14, asymmetry := byteAt p 15, spacing := byteAt p 16 }
  else none

/-- Section 6. -/
def StageSection.ofPayload (p : List Byte) : Option StageSection :=
  let ok := withinInt (-500000) 500000
  if ok (int32At p 2) && ok (int32At p 6) && ok (int32At p 10) && ok (int32At p 14) then
    some { xMin := int32At p 2, xMax := int32At p 6, yMin := int32At p 10, yMax := int32At p 14 }
  else none

/-- The store with the section a CONFIG payload names; none when a field is out of its range (R178). -/
def Settings.store (held : Settings) (p : List Byte) : Option Settings :=
  match byteAt p 1 with
  | 1 => (BenchSection.ofPayload p).map fun v => { held with bench := v }
  | 2 => (toolsOfPayload p 0 held.tools).map fun v => { held with tools := v }
  | 3 => (toolsOfPayload p 3 held.tools).map fun v => { held with tools := v }
  | 4 => (LoadSection.ofPayload p).map fun v => { held with load := v }
  | 5 => (ImageSection.ofPayload p).map fun v => { held with image := v }
  | 6 => (StageSection.ofPayload p).map fun v => { held with stage := v }
  | _ => none

/-- The validation of a complete configuration: the section named by the first check that fails (R179). -/
def Settings.firstFailure (c : Settings) : Option Nat :=
  let kinds := c.tools.toList.map (·.kind)
  if !(kinds.any fun k => k == .vickers || k == .knoop) || !(kinds.any fun k => k == .objective) then some 3
  else if !(decide (c.load.releaseThreshold < c.load.contactThreshold)) then some 4
  else if !(decide (c.image.lightLow < c.image.lightHigh)) then some 5
  else if !(decide (c.stage.xMin < c.stage.xMax) && decide (c.stage.yMin < c.stage.yMax)) then some 6
  else none

end Sys2Proof.Machine
end

