-- ==== Sys2Proof/Machine/Bench.lean ====
section
/-! DEFINITION. The Bench Coordination Unit: own state and drivers, claims, eligibility, Peer Table, Bench Queue, stuck
lines, number clash (chapter 3). -/

namespace Sys2Proof.Machine

/-! ### Own state, drivers, lines (R47, R48) -/

/-- The QUIET driver (R47). -/
def OwnState.drivesQuiet (o : OwnState) : Bool :=
  match o with
  | .holding | .quiet => true
  | .idle | .waitMove | .starting | .checking | .moving | .settling | .waitQuiet | .blocked => false

/-- The MOTION driver (R47). -/
def OwnState.drivesMotion (o : OwnState) : Bool :=
  match o with
  | .checking | .moving | .settling => true
  | .idle | .waitMove | .starting | .waitQuiet | .holding | .quiet | .blocked => false

/-- What the station announces in each own state; nothing in BLOCKED (R47). -/
def OwnState.announced (o : OwnState) : Option Announce :=
  match o with
  | .idle => some .idle
  | .waitMove => some .waitMove
  | .starting | .checking | .moving => some .moving
  | .settling => some .settling
  | .waitQuiet | .holding => some .waitQuiet
  | .quiet => some .quiet
  | .blocked => none

/-- The station's drive of a line. -/
def Bcu.drives (c : Bcu) (l : BenchLine) : Bool :=
  match l with
  | .quiet => c.own.drivesQuiet
  | .motion => c.own.drivesMotion

/-- The sensed level of a line: the wired OR of the own driver and the level reported from outside (R48, log 7). -/
def Bcu.sensed (c : Bcu) (l : BenchLine) : Bool :=
  match l with
  | .quiet => c.own.drivesQuiet || c.quietIn
  | .motion => c.own.drivesMotion || c.motionIn

/-- The level reported from outside. -/
def Bcu.setLine (c : Bcu) (l : BenchLine) (level : Bool) : Bcu :=
  match l with
  | .quiet => { c with quietIn := level }
  | .motion => { c with motionIn := level }

/-! ### Claims (R49, R50) -/

/-- The two kinds of claim (R49). -/
inductive ClaimKind where
  | motion
  | quiet
  deriving DecidableEq, Repr

/-- The kind of a claim: the ADU's are MOTION, the LDU's and the RIU's QUIET (R49). -/
def Claim.kind (c : Claim) : ClaimKind :=
  match c.claimant with
  | .adu => .motion
  | .ldu | .riu => .quiet

/-- The own state a claim waits in when it becomes active (R50). -/
def Claim.waitState (c : Claim) : OwnState :=
  match c.kind with
  | .motion => .waitMove
  | .quiet => .waitQuiet

/-- The active claim: the head of the queue when the own state is neither IDLE nor BLOCKED (R49). -/
def Bcu.active (c : Bcu) : Option Claim :=
  match c.own with
  | .idle | .blocked => none
  | .waitMove | .starting | .checking | .moving | .settling | .waitQuiet | .holding | .quiet => c.claims.head?

/-- The seq in work a STATE frame carries (R62). -/
def Bcu.work (c : Bcu) : Option Seq :=
  c.active.bind (·.work)

/-- A STATE frame is built and placed in the STATE slot, and the refresh timer restarts; it does not run in IDLE, and in
BLOCKED nothing is placed (R47, R62, R166). -/
def placeState (e : Site) (b : Blocks) : Blocks :=
  match b.bcu.own.announced with
  | none => b
  | some a =>
    { b with
      lki := { b.lki with slot := some { announced := a, run := b.rsq.run, work := b.bcu.work } }
      bcu := { b.bcu with refresh := if b.bcu.own = .idle then none else some e.now } }

/-- The own state changes and is announced. -/
def enterOwn (e : Site) (o : OwnState) (b : Blocks) : Blocks :=
  placeState e (b.withBcu { b.bcu with own := o })

/-! ### Eligibility (R52, R56) -/

/-- The entries ahead of `own` in the Bench Queue; none when it does not stand there. -/
def Bcu.ahead (c : Bcu) (own : Station) : Option (List Station) :=
  if own ∈ c.benchQueue then some (c.benchQueue.takeWhile fun s => s != own) else none

/-- The announced state of a station's entry. -/
def Bcu.entryState (c : Bcu) (s : Station) : PeerState :=
  c.peers[s].announced

/-- The stations whose entry is MOVING or SETTLING, other than `own` (R52, R56). -/
def Bcu.othersInMotion (c : Bcu) (own : Station) : List Station :=
  (List.finRange 16).filter fun s =>
    s != own && (c.entryState s == .heard .moving || c.entryState s == .heard .settling)

/-- Motion eligibility, the four conditions of R52. The own entry stands in the queue as WAITMOVE (log 8). -/
def Bcu.motionEligible (c : Bcu) (own : Station) (budget : Nat) : Bool :=
  match c.ahead own with
  | none => false
  | some front =>
    c.entryState own == .heard .waitMove
      && !(front.any fun s => c.entryState s == .heard .waitQuiet)
      && decide ((front.filter fun s => c.entryState s == .heard .waitMove).length + (c.othersInMotion own).length < budget)
      && !c.sensed .quiet

/-- Quiet eligibility, the four conditions of R56. The own entry stands in the queue as WAITQUIET (log 8). -/
def Bcu.quietEligible (c : Bcu) (own : Station) : Bool :=
  match c.ahead own with
  | none => false
  | some front =>
    c.entryState own == .heard .waitQuiet
      && !(front.any fun s => c.entryState s == .heard .waitMove)
      && (c.othersInMotion own).isEmpty
      && !c.sensed .motion

/-- The eligibility test of the own state: WAITMOVE enters STARTING and places STATE(MOVING) (R52); WAITQUIET asserts
QUIET, enters HOLDING and starts the sense delay, and places no frame (R56). -/
def testEligible (e : Site) (b : Blocks) : Blocks :=
  match b.bcu.own with
  | .waitMove => if b.bcu.motionEligible e.station e.cfg.bench.moveBudget then enterOwn e .starting b else b
  | .waitQuiet =>
    if b.bcu.quietEligible e.station then b.withBcu { b.bcu with own := .holding, sense := some e.now } else b
  | .idle | .starting | .checking | .moving | .settling | .holding | .quiet | .blocked => b

/-! ### Claims begin and end (R49 to R51, R55, R58, R68, R69) -/

/-- The head claim becomes active, or the station becomes IDLE; either is announced (R50). Eligibility is tested at once: an own entry
that a former claim of the same kind left in the Bench Queue counts (log 35). -/
def activateNext (e : Site) (b : Blocks) : Blocks :=
  match b.bcu.claims with
  | [] => enterOwn e .idle b
  | c :: _ => testEligible e (enterOwn e c.waitState b)

/-- BLOCKED (R69): drivers released by the own state, STATE slot emptied, refresh and the claim's timers stopped, the
pending mark cleared (R68). Claims stay in the queue. -/
def enterBlocked (b : Blocks) : Blocks :=
  { b with
    lki := { b.lki with slot := none }
    bcu := { b.bcu with own := .blocked, sense := none, settle := none, refresh := none, clash := false } }

/-- Claims with entries removed, and the claims that waited at their units appended to the places they leave (R49). -/
def Bcu.refill (c : Bcu) (rest : List Claim) : Bcu :=
  { c with claims := rest ++ c.waiting.take (2 - rest.length), waiting := c.waiting.drop (2 - rest.length) }

/-- The active claim leaves the queue and its timers stop. -/
def Bcu.dropActive (c : Bcu) : Bcu :=
  { c.refill c.claims.tail with sense := none, settle := none }

/-- The active claim leaves (R55 steps 1 and 2, R58): until the next one becomes active the own state stands as BLOCKED, in
which both drivers are released, nothing is announced, and claims only join the queue or leave it. -/
def leaveClaim (b : Blocks) : Blocks :=
  b.withBcu { b.bcu.dropActive with own := .blocked }

/-- The next claim becomes active, or the station becomes IDLE, or BLOCKED under a pending clash (R55 step 4, R58, R68). -/
def nextClaim (e : Site) (b : Blocks) : Blocks :=
  if b.bcu.clash then enterBlocked b else activateNext e b

/-- The active claim ends and nothing stands between (R51, R58). -/
def endActive (e : Site) (b : Blocks) : Blocks :=
  nextClaim e (leaveClaim b)

/-- A unit puts a claim (R49, R50): appended, or left at its unit when the queue holds 2; active at once when IDLE with
an empty queue. -/
def claimArrives (e : Site) (c : Claim) (b : Blocks) : Blocks :=
  if 2 ≤ b.bcu.claims.length then b.withBcu { b.bcu with waiting := b.bcu.waiting ++ [c] }
  else
    let b' := b.withBcu { b.bcu with claims := b.bcu.claims ++ [c] }
    if b.bcu.own = .idle ∧ b.bcu.claims = [] then activateNext e b' else b'

/-- The ADU reports the end of the granted motion: SETTLING, announced, and the settle timer (R55). -/
def endMotion (e : Site) (b : Blocks) : Blocks :=
  if b.bcu.own = .moving then
    let b := enterOwn e .settling b
    b.withBcu { b.bcu with settle := some e.now }
  else b

/-- The claimant `who` releases its granted quiet claim, or withdraws its claim, according to where it stands (R51, R58). -/
def cancelClaim (e : Site) (who : Claimant) (b : Blocks) : Blocks :=
  if b.bcu.waiting.any fun c => c.claimant == who then
    b.withBcu { b.bcu with waiting := b.bcu.waiting.filter fun c => c.claimant != who }
  else if b.bcu.active.map (·.claimant) = some who then
    match b.bcu.own with
    | .waitMove | .starting | .checking | .waitQuiet | .holding | .quiet => endActive e b
    | .moving => endMotion e b
    | .settling | .idle | .blocked => b
  else if b.bcu.claims.any fun c => c.claimant == who then
    b.withBcu (b.bcu.refill (b.bcu.claims.filter fun c => c.claimant != who))
  else b

/-- The claimant's claim is still somewhere with the BCU. -/
def Bcu.holdsClaim (c : Bcu) (who : Claimant) : Bool :=
  (c.claims ++ c.waiting).any fun k => k.claimant == who

/-! ### Peer Table and Bench Queue (R59, R60, R63, R64) -/

/-- The Bench Queue after a STATE frame from `s` (R60). -/
def benchQueueAfter (queue : List Station) (s : Station) (before : PeerState) (a : Announce) : List Station :=
  let without := queue.filter fun q => q != s
  match a with
  | .waitMove =>
    if before = .heard .moving then s :: without
    else if before = .heard .waitMove then queue
    else without ++ [s]
  | .waitQuiet => if before = .heard .waitQuiet then queue else without ++ [s]
  | .idle | .moving | .settling | .quiet => without

/-- PEERLOST is true: at least one entry is LOST (R64). -/
def Bcu.peerLost (c : Bcu) : Bool :=
  (List.finRange 16).any fun s => c.entryState s == .lost

/-- LINESTUCK is true: at least one line is stuck (R66). -/
def Bcu.lineStuck (c : Bcu) : Bool :=
  c.quietStuck.stuck || c.motionStuck.stuck

/-- The Peer Table and Bench Queue after a STATE frame from `s` (R59 steps 1 to 3, R60). -/
def Bcu.takeFrame (c : Bcu) (now : Stamp) (s : Station) (f : StateFrame) : Bcu :=
  { c with
    benchQueue := benchQueueAfter c.benchQueue s (c.entryState s) f.announced
    peers := c.peers.set s
      { announced := .heard f.announced, run := some f.run, work := f.work, stamp := some now } }

/-- A STATE frame from `s` is taken: tables, the end of PEERLOST (R64), the eligibility tests (R59). -/
def takeStateFrame (e : Site) (s : Station) (f : StateFrame) (b : Blocks) : Blocks :=
  let lostBefore := b.bcu.peerLost
  let b := b.withBcu (b.bcu.takeFrame e.now s f)
  testEligible e (conditionEdge e .peerLost lostBefore b.bcu.peerLost b)

/-- The echo of an own STATE frame: taken as any STATE frame; the own MOVING frame passing in STARTING asserts MOTION,
enters CHECKING and starts the sense delay (R53, R161), also when a cancelled claim placed it (log 36). -/
def takeEcho (e : Site) (f : StateFrame) (b : Blocks) : Blocks :=
  let b := takeStateFrame e e.station f b
  if b.bcu.own = .starting ∧ f.announced = .moving then
    b.withBcu { b.bcu with own := .checking, sense := some e.now }
  else b

/-- An entry that the silence check times: another station's, not IDLE, ABSENT or LOST (R63). -/
def PeerState.timed (p : PeerState) : Bool :=
  match p with
  | .heard .idle | .absent | .lost => false
  | .heard .waitMove | .heard .moving | .heard .settling | .heard .waitQuiet | .heard .quiet => true

/-- The entry of `s` has been silent for the silence limit (R63); nothing is checked in UNCONFIGURED (R72). -/
def silenceDue (e : Site) (s : Station) (b : Blocks) : Bool :=
  b.phase != .unconfigured && s != e.station && (b.bcu.entryState s).timed
    && Timer.due b.bcu.peers[s].stamp e.now (e.cfg.bench.silenceMs * Config.ticksPerMs)

/-- The entry of `s` becomes LOST (R63). -/
def Bcu.losePeer (c : Bcu) (s : Station) : Bcu :=
  { c with
    peers := c.peers.set s { c.peers[s] with announced := .lost }
    benchQueue := c.benchQueue.filter fun q => q != s }

/-- A frame with the own sender number that this station did not send (R67). -/
def numberClash (e : Site) (b : Blocks) : Blocks :=
  let b := raise e .numberClash b
  match b.bcu.own with
  | .moving | .settling | .quiet => b.withBcu { b.bcu with clash := true }
  | .idle | .waitMove | .starting | .checking | .waitQuiet | .holding => enterBlocked b
  | .blocked => b

/-! ### Stuck lines (R65, R66) -/

/-- An entry, own included, that accounts for the line (R65). -/
def Bcu.accounted (c : Bcu) (l : BenchLine) : Bool :=
  (List.finRange 16).any fun s =>
    match l with
    | .quiet => c.entryState s == .heard .quiet || c.entryState s == .heard .waitQuiet
    | .motion => c.entryState s == .heard .moving || c.entryState s == .heard .settling

/-- The suspect condition of a line (R65). -/
def Bcu.suspect (c : Bcu) (l : BenchLine) : Bool :=
  c.sensed l && !c.accounted l

/-- A stuck watch brought up to the line and the tables as they stand: a released line ends the stuck state, the timer runs
while the line is suspect and not stuck (R65); it does not start in UNCONFIGURED (R72). -/
def StuckWatch.follow (w : StuckWatch) (now : Stamp) (timing sensed suspect : Bool) : StuckWatch :=
  if !sensed then StuckWatch.off
  else if w.stuck then { w with timer := none }
  else if suspect && timing then { timer := some (w.timer.getD now), stuck := false }
  else StuckWatch.off

/-- The watch of a line. -/
def Bcu.watch (c : Bcu) (l : BenchLine) : StuckWatch :=
  match l with
  | .quiet => c.quietStuck
  | .motion => c.motionStuck

/-- Both stuck watches at the end of an event, and the end of LINESTUCK (R65, R66). -/
def settleLines (e : Site) (b : Blocks) : Blocks :=
  let before := b.bcu.lineStuck
  let timing := b.phase != .unconfigured
  let c := { b.bcu with
    quietStuck := b.bcu.quietStuck.follow e.now timing (b.bcu.sensed .quiet) (b.bcu.suspect .quiet)
    motionStuck := b.bcu.motionStuck.follow e.now timing (b.bcu.sensed .motion) (b.bcu.suspect .motion) }
  conditionEdge e .lineStuck before c.lineStuck (b.withBcu c)

/-- A stuck timer reaches the stuck limit: the line is stuck, STUCKEVENTS is counted, LINESTUCK may begin (R65, R66). -/
def lineBecomesStuck (e : Site) (l : BenchLine) (b : Blocks) : Blocks :=
  let before := b.bcu.lineStuck
  let b := count e .stuckEvents b
  let c := match l with
    | .quiet => { b.bcu with quietStuck := { timer := none, stuck := true } }
    | .motion => { b.bcu with motionStuck := { timer := none, stuck := true } }
  conditionEdge e .lineStuck before true (b.withBcu c)

end Sys2Proof.Machine
end

