-- ==== Sys2Proof/Machine/Edges.lean ====
section
/-! DEFINITION. The Edge Unit: slicing a row, row and column edges, frame values, the focus search (chapter 7). -/

namespace Sys2Proof.Machine

/-! ### Peak and threshold (R132, R133) -/

/-- The largest of some values; 0 of none. -/
def maxOf (l : List Nat) : Nat :=
  l.foldl max 0

/-- A peak joins the history at its newest end; the oldest of more than 64 leaves (R132). -/
def pushPeak (history : List Nat) (peak : Nat) : List Nat :=
  let h := history ++ [peak]
  h.drop (h.length - 64)

/-- The reference: the largest of the newest `w` peaks (R132). -/
def referencePeak (history : List Nat) (w : Nat) : Nat :=
  maxOf (history.drop (history.length - w))

/-- The threshold of a reference (R133). -/
def threshold (reference percent : Nat) : Nat :=
  roundHalfUpNat (reference * percent) 100

/-! ### Runs along a row (R134 to R136) -/

/-- A row run with its crossings in sixteenths (R134, R135). -/
structure RowRun where
  first : Nat
  last  : Nat
  entry : Nat
  exit  : Nat
  deriving DecidableEq, Repr

def RowRun.length (r : RowRun) : Nat :=
  r.last - r.first + 1

/-- The entry of a run that begins at column `c`: window side, or interpolated from the light pixel before it (R135). -/
def entryCrossing (t c : Nat) (before : Option Nat) (v : Nat) : Nat :=
  match before with
  | none => 0
  | some p => 16 * (c - 1) + 16 * (p - t) / (p - v)

/-- The exit of a run that ends at column `b`, from its last dark pixel and the light pixel after it (R135). -/
def exitCrossing (t b p v : Nat) : Nat :=
  16 * b + 16 * (t - p) / (v - p)

/-- The row runs from column `c` on. `before` is the pixel of column `c - 1`, `cur` the run in hand: first column, entry. -/
def rowRunsFrom (t c : Nat) (before : Option Nat) (cur : Option (Nat × Nat)) (values : List Nat) : List RowRun :=
  match values with
  | [] =>
    match cur with
    | none => []
    | some (a, entry) => [{ first := a, last := c - 1, entry := entry, exit := 4080 }]
  | v :: rest =>
    if v < t then
      match cur with
      | none => rowRunsFrom t (c + 1) (some v) (some (c, entryCrossing t c before v)) rest
      | some run => rowRunsFrom t (c + 1) (some v) (some run) rest
    else
      match cur with
      | none => rowRunsFrom t (c + 1) (some v) none rest
      | some (a, entry) =>
        { first := a, last := c - 1, entry := entry, exit := exitCrossing t (c - 1) (before.getD 0) v }
          :: rowRunsFrom t (c + 1) (some v) none rest

/-- The qualified row runs of a row, in order of rising column (R134). -/
def qualifiedRuns (t minRun : Nat) (values : List Nat) : List RowRun :=
  (rowRunsFrom t 0 none none values).filter fun r => decide (minRun ≤ r.length)

/-- The widest of some runs; of equal lengths the first (R136). -/
def widestRun (first : RowRun) (rest : List RowRun) : RowRun :=
  rest.foldl (fun best r => if best.length < r.length then r else best) first

/-- The Row Edge Table entry of a row's qualified runs (R136). -/
def rowEdgeOf (mode : EdgeMode) (runs : List RowRun) : Option RowEdge :=
  match runs with
  | [] => none
  | first :: rest =>
    match mode with
    | .outer => some { runs := min 15 runs.length, left := first.entry, right := (rest.getLastD first).exit }
    | .widest =>
      let w := widestRun first rest
      some { runs := min 15 runs.length, left := w.entry, right := w.exit }

/-! ### Columns (R137, R138) -/

/-- A crossing between logical rows `r` and `r + 1`, of values `lower` at `r` and `upper` at `r + 1`; half way when the
pair does not straddle the threshold in the way the crossing needs (R137). -/
def columnCrossing (r lower upper t : Nat) (lightFirst : Bool) : Nat :=
  if lightFirst then
    if t ≤ lower ∧ upper < t then 16 * r + 16 * (lower - t) / (lower - upper) else 16 * r + 8
  else
    if lower < t ∧ t ≤ upper then 16 * r + 16 * (t - lower) / (upper - lower) else 16 * r + 8

/-- The crossing that starts or ends a column run in the scan: `p` is the previous row's pixel, `j` this row's (R137). -/
def scanCrossing (rev : Bool) (row p j t : Nat) (starting : Bool) : Nat :=
  if rev then columnCrossing row j p t (!starting) else columnCrossing (row - 1) p j t starting

/-- The starting crossing of a run that starts at the first row of the frame: the window edge (R137). -/
def firstRowCrossing (row : Nat) : Nat :=
  if row = 0 then 0 else 4080

/-- A qualifying run's starting crossing goes into an absent entry: top when rows rise, bottom when they fall (R138). -/
def captureStart (rev : Bool) (edge : Option Nat) (entry : Option ColEdge) : Option ColEdge :=
  match entry with
  | some c => some c
  | none => if rev then some { top := none, bottom := edge } else some { top := edge, bottom := none }

/-- A qualified run's ending crossing: bottom when rows rise, top when they fall (R138). -/
def captureEnd (rev : Bool) (crossing : Nat) (entry : Option ColEdge) : Option ColEdge :=
  entry.map fun c => if rev then { c with top := some crossing } else { c with bottom := some crossing }

/-- The row in hand as the columns see it. -/
structure RowView where
  final  : Bool
  rev    : Bool
  minRun : Nat
  row    : Nat
  t      : Nat
  deriving DecidableEq, Repr

/-- A column's previous pixel was dark under its own row's threshold (R137). -/
def previousDark (prev : Option (Nat × Nat)) : Bool :=
  match prev with
  | none => false
  | some (p, pt) => decide (p < pt)

/-- The column state after a row (R137). `prev` is the previous row's pixel and threshold. -/
def colState (v : RowView) (prev : Option (Nat × Nat)) (j : Nat) (st : ColState) : ColState :=
  let dark := decide (j < v.t)
  match dark, previousDark prev with
  | true, false =>
    { run := 1, qualified := false
      edge := some (match prev with
        | none => firstRowCrossing v.row
        | some (p, _) => scanCrossing v.rev v.row p j v.t true) }
  | true, true =>
    let n := min 255 (st.run + 1)
    { st with run := n, qualified := st.qualified || n == v.minRun }
  | false, true => { st with run := 0, edge := none }
  | false, false => st

/-- The Column Edge Table entry after a row: written by a FINAL frame only (R137, R138). -/
def colEntry (v : RowView) (prev : Option (Nat × Nat)) (j : Nat) (st : ColState) (entry : Option ColEdge) : Option ColEdge :=
  if !v.final then entry
  else
    match decide (j < v.t), previousDark prev with
    | true, true => if min 255 (st.run + 1) = v.minRun then captureStart v.rev st.edge entry else entry
    | false, true =>
      if st.qualified then captureEnd v.rev (scanCrossing v.rev v.row ((prev.map (·.1)).getD 0) j v.t false) entry
      else entry
    | true, false | false, false => entry

/-! ### A row, a frame (R131, R139) -/

/-- A row's sharpness: the sum of the absolute differences of neighbours (R139). -/
def sharpness (values : List Nat) : Nat :=
  match values with
  | [] => 0
  | [_] => 0
  | a :: b :: rest => (if a ≤ b then b - a else a - b) + sharpness (b :: rest)

/-- The EGU begins a frame for the TARGET bank: FINAL when the search has named the best height (R131). -/
def Egu.beginFrame (g : Egu) (bank : BankId) : Egu :=
  let final := match g.search with
    | some s => match s.decision with
      | .best _ => true
      | .undecided | .focusPoor => false
    | none => false
  { g with
    history := [], prev := none, cols := Vector.replicate 256 ColState.cleared, runPeak := 0, energy := 0
    kind := some (if final then .final else .search)
    results := if final then g.results.set bank FrameResults.cleared else g.results }

/-- The EGU takes a row, in logical column order with its logical row number (R131 to R139). -/
def Egu.takeRow (g : Egu) (img : ImageSection) (mode : EdgeMode) (rev : Bool) (bank : BankId) (row : Fin 256)
    (pixels : List Byte) : Egu :=
  let values := pixels.map (·.toNat)
  let peak := maxOf values
  let history := pushPeak g.history peak
  let t := threshold (referencePeak history img.window) img.threshold
  let final := g.kind == some .final
  let v : RowView := { final := final, rev := rev, minRun := img.minRun, row := row, t := t }
  let prevAt (c : Nat) : Option (Nat × Nat) := g.prev.map fun q => ((q.pixels.getD c 0).toNat, q.threshold)
  let res := g.results[bank]
  let res' : FrameResults :=
    if final then
      { res with
        rows := res.rows.set row ((rowEdgeOf mode (qualifiedRuns t img.minRun values)).or res.rows[row])
        cols := Vector.ofFn fun c : Fin 256 => colEntry v (prevAt c) (values.getD c 0) g.cols[c] res.cols[c] }
    else res
  { g with
    history := history
    prev := some { pixels := pixels, threshold := t }
    cols := Vector.ofFn fun c : Fin 256 => colState v (prevAt c) (values.getD c 0) g.cols[c]
    results := g.results.set bank res'
    runPeak := max g.runPeak peak
    energy := min 4294967295 (g.energy + sharpness values) }

/-- The EGU completes a frame: open column runs end at the window edge, a FINAL frame's peak is set (R139), and no frame is in
hand until the next (R130). -/
def Egu.completeFrame (g : Egu) (rev : Bool) (bank : BankId) : Egu :=
  let edge := if rev then 0 else 4080
  let res := g.results[bank]
  let res' : FrameResults :=
    if g.kind = some .final then
      { res with
        cols := Vector.ofFn fun c : Fin 256 =>
          if 0 < g.cols[c].run ∧ g.cols[c].qualified = true then captureEnd rev edge res.cols[c] else res.cols[c]
        peak := g.runPeak }
    else res
  { g with
    cols := Vector.ofFn fun c : Fin 256 => if 0 < g.cols[c].run then { g.cols[c] with run := 0, edge := none } else g.cols[c]
    kind := none
    results := g.results.set bank res' }

/-! ### The focus search (R140 to R143) -/

/-- The heights of a search: 9 or 3, one focus step apart, centred, each clamped (R140). -/
def searchHeights (kind : SearchKind) (centre : Int) (step : Nat) : List Int :=
  match kind with
  | .full => (List.range 9).map fun i => clampHeight (centre + ((i : Int) - 4) * step)
  | .short => (List.range 3).map fun i => clampHeight (centre + ((i : Int) - 1) * step)

/-- The search record filled at the grant (R140). -/
def Search.start (kind : SearchKind) (centre : Int) (step : Nat) : Search :=
  { kind := kind, centre := centre, heights := searchHeights kind centre step, index := 0, scores := []
    decision := .undecided }

/-- The height named to the RIU: the present one of the list, or the best (R140 to R142). -/
def Search.height (s : Search) : Int :=
  match s.decision with
  | .best i => s.heights.getD i 0
  | .undecided | .focusPoor => s.heights.getD s.index 0

/-- The lowest index among the highest scores, and that score (R142). -/
def bestScore (scores : List Nat) : Nat × Nat :=
  let top := maxOf scores
  (scores.findIdx fun v => v == top, top)

/-- The decision when every height has a score (R142). -/
def decideSearch (scores : List Nat) (minEnergy : Nat) : Decision :=
  if (bestScore scores).2 < minEnergy then .focusPoor else .best (bestScore scores).1

/-- A SEARCH frame's energy is recorded; the next height is named, or the decision is made (R141, R142). -/
def Search.record (s : Search) (energy minEnergy : Nat) : Search :=
  let scores := s.scores ++ [energy]
  if s.index + 1 < s.heights.length then { s with scores := scores, index := s.index + 1 }
  else { s with scores := scores, decision := decideSearch scores minEnergy }

end Sys2Proof.Machine
end

