-- ==== Sys2Proof/Machine/Gauge.lean ====
section
/-! DEFINITION. The Gauge Unit: from a bank's edge tables to an outcome (chapter 8). -/

namespace Sys2Proof.Machine

/-- A block of logical rows with what the GGU reads from its block rows (R147, R155). -/
structure Block where
  first : Nat
  last  : Nat
  count : Nat
  left  : Nat
  right : Nat
  wide  : Nat
  split : Nat
  deriving DecidableEq, Repr

/-- A block of one row. -/
def Block.single (row : Nat) (e : RowEdge) : Block :=
  { first := row, last := row, count := 1, left := e.left, right := e.right, wide := e.right - e.left
    split := if 1 < e.runs then 1 else 0 }

/-- A block that takes one more row. -/
def Block.extend (b : Block) (row : Nat) (e : RowEdge) : Block :=
  { first := b.first, last := row, count := b.count + 1, left := min b.left e.left, right := max b.right e.right
    wide := max b.wide (e.right - e.left), split := b.split + if 1 < e.runs then 1 else 0 }

/-- The blocks of the rows from `row` on, `cur` being the block in hand: at most 2 absent rows stand together inside one
(R147). -/
def blocksFrom (row : Nat) (cur : Option Block) (table : List (Option RowEdge)) : List Block :=
  match table with
  | [] => cur.toList
  | none :: rest => blocksFrom (row + 1) cur rest
  | some e :: rest =>
    match cur with
    | none => blocksFrom (row + 1) (some (Block.single row e)) rest
    | some b =>
      if row ≤ b.last + 3 then blocksFrom (row + 1) (some (b.extend row e)) rest
      else b :: blocksFrom (row + 1) (some (Block.single row e)) rest

/-- The impression block: most block rows, the lowest first row among equals (R147). -/
def impressionBlock (table : List (Option RowEdge)) : Option Block :=
  match blocksFrom 0 none table with
  | [] => none
  | b :: rest => some (rest.foldl (fun best c => if best.count < c.count then c else best) b)

/-- R148. -/
def Block.clippedV (b : Block) : Bool :=
  b.first == 0 || b.last == 255

/-- R148. -/
def Block.clippedH (b : Block) : Bool :=
  b.left == 0 || b.right == 4080

/-- Both opposite sides are touched in one direction (R148). -/
def Block.through (b : Block) : Bool :=
  (b.first == 0 && b.last == 255) || (b.left == 0 && b.right == 4080)

/-- A re-centring: a new window top, a shift correction in x, one in y, each where it is carried (R149, R150). -/
structure Recentring where
  top : Option Nat
  dx  : Option Int
  dy  : Option Int
  deriving DecidableEq, Repr

/-- The outcomes of a measurement (R146); CLIPPED without a re-centring is final. -/
inductive GaugeOutcome where
  | done (r : ResultPart)
  | noImpression
  | clipped (recentring : Option Recentring)
  | tooSmall
  deriving DecidableEq, Repr

/-- The block's horizontal centre relative to the window's, in 0.1 µm (R149, R157). -/
def horizontalOffset (b : Block) (scale : Nat) : Int :=
  roundHalfUp (((b.left : Int) + b.right - 4080) * scale) 3200

/-- `n` halved, rounded away from zero (R150). -/
def halfAwayFromZero (n : Int) : Int :=
  if 0 ≤ n then (n + 1) / 2 else -((-n + 1) / 2)

/-- The row error of R150. -/
def rowError (b : Block) : Int :=
  halfAwayFromZero ((b.first : Int) + b.last - 255)

/-- The new window top of R150. -/
def newWindowTop (m : Measurement) (err : Int) : Int :=
  clampInt 0 64 ((m.windowTop : Int) + if m.revRow then -err else err)

/-- The residual of R150, in logical rows. -/
def residualRows (m : Measurement) (err : Int) : Int :=
  let made := newWindowTop m err - m.windowTop
  err - if m.revRow then -made else made

/-- The re-centring of a clip that is not through (R149, R150). -/
def recentringOf (m : Measurement) (b : Block) : Recentring :=
  let err := rowError b
  let top := (newWindowTop m err).toNat
  let residual := residualRows m err
  { top := if b.clippedV && top != m.windowTop then some top else none
    dx := if b.clippedH then some (horizontalOffset b m.scale) else none
    dy := if b.clippedV && residual != 0 then some (roundHalfUp (residual * m.scale) 100) else none }

/-- bottom minus top of a column entry (R151). -/
def ColEdge.height (c : ColEdge) : Nat :=
  c.bottom.getD 0 - c.top.getD 0

/-- The vertical diagonal in sixteenths: the largest column height over the column span (R151). -/
def verticalExtent (b : Block) (cols : List (Option ColEdge)) : Nat :=
  maxOf (((cols.drop (b.left / 16)).take (b.right / 16 - b.left / 16 + 1)).filterMap fun c => c.map (·.height))

/-- A diagonal in nanometres (R152). -/
def toNanometres (sixteenths scale : Nat) : Nat :=
  roundHalfUpNat (sixteenths * scale) 16

/-- The d of R153: the mean diagonal for Vickers, the long one for Knoop. -/
def meanDiagonal (tool : ToolKind) (dH dV : Nat) : Nat :=
  if tool = .knoop then dH else roundHalfUpNat (dH + dV) 2

/-- The constant of R153. -/
def hardnessConstant (tool : ToolKind) : Int :=
  if tool = .knoop then 14510000000 else 1891000000

/-- The hardness (R153), saturated to 0 to 65,535 (R1); a free value for a diagonal of 0 (log 17). -/
def hardnessOf (tool : ToolKind) (force : Int) (d : Nat) : Nat :=
  if d = 0 then min 65535 (Config.openHardness force)
  else (clampInt 0 65535 (roundHalfUp (hardnessConstant tool * force) (d * d))).toNat

/-- The verdict (R154). -/
def verdictOf (low high : Option Nat) (hardness : Nat) : Verdict :=
  if low = none ∧ high = none then .noLimit
  else if low.any fun l => decide (hardness < l) then .low
  else if high.any fun h => decide (h < hardness) then .high
  else .pass

/-- ASYM (R155). -/
def asymOf (tool : ToolKind) (limit dH dV d : Nat) : Bool :=
  tool != .knoop && decide (limit * d < (max dH dV - min dH dV) * 1000)

/-- SPLIT (R155). -/
def splitOf (b : Block) : Bool :=
  decide (b.count < b.split * 4)

/-- A DONE record other than the point measured lies too near (R156). -/
def tooNear (m : Measurement) (d : Nat) (p : Point) : Bool :=
  p.plan.seq != m.seq && p.progress.state == .done
    && decide (1000000 * ((p.plan.x - m.x) ^ 2 + (p.plan.y - m.y) ^ 2) < ((m.spacing * d : Nat) : Int) ^ 2)

/-- The completion of a measurement, from the tables of its bank and the Point Table as they stand (R146 to R157). -/
def measure (m : Measurement) (res : FrameResults) (points : List Point) : GaugeOutcome :=
  match impressionBlock res.rows.toList with
  | none => .noImpression
  | some b =>
    if b.clippedV || b.clippedH then
      .clipped (if b.through then none else some (recentringOf m b))
    else
      let v := verticalExtent b res.cols.toList
      if b.wide < 320 ∨ v < 320 then .tooSmall
      else
        let dH := toNanometres b.wide m.scale
        let dV := toNanometres v m.scale
        let d := meanDiagonal m.tool dH dV
        let h := hardnessOf m.tool m.force d
        .done
          { dH := dH, dV := dV, hardness := h, verdict := verdictOf m.low m.high h
            asym := asymOf m.tool m.asymmetry dH dV d, split := splitOf b
            spacing := points.any (tooNear m d)
            offX := horizontalOffset b m.scale
            offY := roundHalfUp (((b.first : Int) + b.last - 255) * m.scale) 200
            stamp := m.values.stamp, level := m.values.level, height := m.values.height }

end Sys2Proof.Machine
end

