-- ==== Sys2Proof/Machine/Rows.lean ====
section
/-! DEFINITION. The Row Intake Unit: bank choice, the capture record, the memory port, the orientation of a row, the lamp
(chapter 6). -/

namespace Sys2Proof.Machine

/-! ### Bank Tags (R115, R118) -/

/-- A Bank Tag replaced. -/
def Riu.setTag (r : Riu) (k : BankId) (t : BankTag) : Riu :=
  { r with tags := r.tags.set k t }

/-- A bank's state changed, its other tag fields kept (R125). -/
def Riu.setBank (r : Riu) (k : BankId) (st : BankState) : Riu :=
  r.setTag k { r.tags[k] with state := st }

/-- A bank that takes `st` with owner and serial absent: TARGET at its choice (R118), FREE when its capture gives it back
(R114, R122 to R124). -/
def Riu.disown (r : Riu) (k : BankId) (st : BankState) : Riu :=
  r.setTag k { r.tags[k] with state := st, owner := none, serial := none }

/-- A bank becomes FILLED under a seq with a new capture serial (R115, R121). -/
def Riu.fillBank (r : Riu) (k : BankId) (q : Seq) : Riu :=
  let n := (r.counter + 1) % 65536
  { r with counter := n, tags := r.tags.set k { r.tags[k] with state := .filled, owner := some q, serial := some n } }

/-- How far a bank's serial lies behind the capture counter, modulo 65,536 (R115). -/
def Riu.behind (r : Riu) (k : BankId) : Nat :=
  (r.counter + 65536 - r.tags[k].serial.getD r.counter) % 65536

/-- A bank may be chosen (R118). -/
def Riu.available (r : Riu) (k : BankId) : Bool :=
  match r.tags[k].state with
  | .free => true
  | .filled => !r.tags[k].hold && r.readout.map (·.bank) != some k
  | .target | .measuring => false

/-- Bank choice (R118): a FREE bank, bank 0 first; otherwise the older available FILLED bank. -/
def Riu.chooseBank (r : Riu) : Option BankId :=
  if r.tags[(0 : BankId)].state = .free then some 0
  else if r.tags[(1 : BankId)].state = .free then some 1
  else
    match r.available 0, r.available 1 with
    | true, true => if r.behind 0 < r.behind 1 then some 1 else some 0
    | true, false => some 0
    | false, true => some 1
    | false, false => none

/-- The newer of two banks that may carry a serial (R126): the one less far behind. -/
def Riu.newer (r : Riu) : BankId :=
  if r.behind 0 < r.behind 1 then 0 else 1

/-- A bank holds the frame of a seq that READROWS may ask for (R126). -/
def Riu.holds (r : Riu) (q : Seq) (k : BankId) : Bool :=
  r.tags[k].owner == some q && (r.tags[k].state == .filled || r.tags[k].state == .measuring)

/-- The bank READROWS reads for a seq (R126). -/
def Riu.bankOf (r : Riu) (q : Seq) : Option BankId :=
  match r.holds q 0, r.holds q 1 with
  | true, true => some r.newer
  | true, false => some 0
  | false, true => some 1
  | false, false => none

/-! ### The capture record (R119) -/

/-- The RIU makes its choice for the capture in hand: the bank becomes TARGET and the QUIET claim is put, or the capture
waits in WAITBANK (R118, R119). -/
def seekBank (e : Site) (b : Blocks) : Blocks :=
  match b.riu.capture with
  | none => b
  | some c =>
    match b.riu.chooseBank with
    | none => b.withRiu { b.riu with capture := some { c with cond := .waitBank } }
    | some k =>
      claimArrives e { claimant := .riu, work := some c.seq }
        (b.withRiu { b.riu.disown k .target with capture := some { c with cond := .claiming, bank := some k } })

/-- A bank may have become available: a capture in WAITBANK makes its choice again (R118). -/
def seekWaiting (e : Site) (b : Blocks) : Blocks :=
  if b.riu.capture.map (·.cond) = some .waitBank then seekBank e b else b

/-- A capture order (R33) is taken: the record is filled, and waits for the lamp while the warm-up runs (R119, R128). -/
def orderCapture (e : Site) (p : Point) (search : SearchKind) (b : Blocks) : Blocks :=
  let b := b.withRiu { b.riu with
    capture := some
      { seq := p.plan.seq, objective := p.plan.objective, windowTop := p.progress.windowTop, edge := p.plan.edge
        search := search, bank := none, cond := .waitLamp, abandon := false, stamp := 0, arriving := false } }
  if b.riu.warmup.isSome then b else seekBank e b

/-- A row write in progress whose capture ends completes without effect (R117). -/
def Port.stale (p : Port) : Port :=
  match p with
  | .write _ => .write false
  | .free => .free
  | .read => .read

/-- The capture record's bank given back when it is still TARGET; a FILLED bank stays. -/
def Riu.releaseTarget (r : Riu) : Riu :=
  match r.capture.bind (·.bank) with
  | none => r
  | some k => if r.tags[k].state = .target then r.disown k .free else r

/-- What every end of a capture does in its unit: the Row Queue is emptied (R113), a TARGET bank becomes FREE, the camera
timer stops (R123), the capture and search records are emptied (R143). -/
def emptyCapture (b : Blocks) : Blocks :=
  { b with
    riu := { b.riu.releaseTarget with rows := [], capture := none, camera := none, port := b.riu.port.stale }
    egu := { b.egu with search := none } }

/-- The end of a capture: its claim is released or cancelled (R51, R58), and the record is emptied. -/
def closeCapture (e : Site) (b : Blocks) : Blocks :=
  emptyCapture (cancelClaim e .riu b)

/-! ### The memory port (R117) -/

/-- The arbiter grants a FREE port to a waiting user; of both, to the one that did not have the last turn. -/
def Riu.grantPort (r : Riu) : Riu :=
  match r.port with
  | .write _ | .read => r
  | .free =>
    match r.rows.isEmpty, r.readout.isSome with
    | true, false => r
    | false, false => { r with port := .write true, lastTurn := .writer }
    | true, true => { r with port := .read, lastTurn := .readout }
    | false, true =>
      match r.lastTurn with
      | .readout => { r with port := .write true, lastTurn := .writer }
      | .writer => { r with port := .read, lastTurn := .readout }

/-! ### Orientation (R116) -/

/-- The logical row of a physical window row. -/
def logicalRow (revRow : Bool) (p : Nat) : Nat :=
  if revRow then 255 - p else p

/-- A row's pixels in logical column order. -/
def logicalColumns (revCol : Bool) (pixels : List Byte) : List Byte :=
  if revCol then pixels.reverse else pixels

/-! ### The lamp (R121) -/

/-- The lamp level after the adjustment of R121. -/
def adjustedLamp (img : ImageSection) (peak level : Nat) : Nat :=
  if peak < img.lightLow then min 63 (level + img.lightStep)
  else if img.lightHigh < peak then level - img.lightStep
  else level

/-- The lamp output (R128): off while PARKED, lit at its level in every other phase. -/
def lampOutput (b : Blocks) : Option Nat :=
  match b.phase with
  | .parked => none
  | .unconfigured | .ready | .resetting => some b.riu.lamp

end Sys2Proof.Machine
end

