-- ==== Sys2Proof/Machine/Axes.lean ====
section
/-! DEFINITION. The Axis Drive Unit inside itself: axes, the turret's counting, the move record, stop commands (chapter 4).
What a move's end or fault does elsewhere is in Machine/Station.lean. -/

namespace Sys2Proof.Machine

/-! ### The turret (R76 to R79) -/

/-- The position the next pulse brings (R76). -/
def nextPosition (d : Direction) (c : TurretPos) : TurretPos :=
  match d with
  | .forward => c + 1
  | .reverse => c - 1

/-- The shorter way from `c` to `p`: forward for 1 to 3 positions, reverse for 4 or 5 (R76). -/
def shorterWay (c p : TurretPos) : Direction :=
  if (p - c).val ≤ 3 then .forward else .reverse

/-- The turret is being driven (R76). -/
def Turret.isIndexing (t : Turret) : Bool :=
  match t with
  | .indexing _ _ => true
  | .unknown | .at _ => false

/-- The turret's drive command (R76, R77): the direction while INDEXING, withdrawn otherwise. -/
def Turret.drive (t : Turret) : Option Direction :=
  match t with
  | .indexing _ d => some d
  | .unknown | .at _ => none

/-! ### Stage and focus axes (R80 to R83) -/

/-- An axis of the ADU. -/
def Adu.axis (a : Adu) (l : LinearAxis) : AxisState :=
  match l with
  | .stageX => a.x
  | .stageY => a.y
  | .focus => a.f

/-- An axis of the ADU replaced. -/
def Adu.setAxis (a : Adu) (l : LinearAxis) (st : AxisState) : Adu :=
  match l with
  | .stageX => { a with x := st }
  | .stageY => { a with y := st }
  | .focus => { a with f := st }

/-- An axis's part in a move. -/
def Move.goal (m : Move) (l : LinearAxis) : Option AxisGoal :=
  match l with
  | .stageX => m.x
  | .stageY => m.y
  | .focus => m.f

/-- An axis's part in a move replaced. -/
def Move.setGoal (m : Move) (l : LinearAxis) (g : AxisGoal) : Move :=
  match l with
  | .stageX => { m with x := some g }
  | .stageY => { m with y := some g }
  | .focus => { m with f := some g }

/-- The linear axis of a driver port; none for the turret's. -/
def linearAxis (a : Axis) : Option LinearAxis :=
  match a with
  | .turret => none
  | .stageX => some .stageX
  | .stageY => some .stageY
  | .focus => some .focus

/-- The answer limit of an axis (R82, R83). -/
def axisLimit (l : LinearAxis) : Nat :=
  match l with
  | .stageX | .stageY => Config.stageTicks
  | .focus => Config.focusTicks

/-- The fault flag of an axis (R82, R83). -/
def axisNotice (l : LinearAxis) : Notice :=
  match l with
  | .stageX | .stageY => .stageFault
  | .focus => .focusFault

/-- An axis is known and stands at a target (R74, R80). -/
def AxisState.standsAt (a : AxisState) (target : Int) : Bool :=
  a.known && a.pos == target

/-- A drive toward a target: homed first when unknown (R81), ARRIVED without a command when it stands there (R80). -/
def AxisState.start (a : AxisState) (now : Stamp) (target : Int) : AxisState × AxisProgress :=
  if !a.known then ({ a with timer := some now, cmd := some .home }, .homing)
  else if a.pos = target then (a, .arrived)
  else ({ a with timer := some now, cmd := some (.drive target) }, .driving)

/-- The axis of a move started (R75). -/
def Adu.startAxis (a : Adu) (now : Stamp) (l : LinearAxis) : Adu :=
  match a.move with
  | none => a
  | some m =>
    match m.goal l with
    | none => a
    | some g =>
      let r := (a.axis l).start now g.target
      { a.setAxis l r.1 with move := some (m.setGoal l { g with progress := r.2 }) }

/-- An axis that has lost its position (R82, R83). -/
def AxisState.lose (a : AxisState) : AxisState :=
  { a with known := false, timer := none }

/-- An axis at rest at a position. -/
def AxisState.settleAt (a : AxisState) (pos : Int) : AxisState :=
  { a with pos := pos, timer := none }

/-! ### The move record (R74) -/

/-- HOMING, DRIVING or STOPPING: the axis has an answer to give. -/
def AxisProgress.busy (p : AxisProgress) : Bool :=
  match p with
  | .homing | .driving | .stopping => true
  | .arrived | .stopped | .faulted => false

/-- ARRIVED, STOPPED or FAULTED on every axis: the motion has ended (R75, R86, R87). -/
def Move.allEnded (m : Move) : Bool :=
  !(m.turret.any fun g => g.progress.busy) && !(m.x.any fun g => g.progress.busy)
    && !(m.y.any fun g => g.progress.busy) && !(m.f.any fun g => g.progress.busy)

/-- The progress of the turret in the move in hand. -/
def Adu.setTurretProgress (a : Adu) (p : AxisProgress) : Adu :=
  match a.move with
  | none => a
  | some m => { a with move := some { m with turret := m.turret.map fun g => { g with progress := p } } }

/-- The progress of an axis in the move in hand. -/
def Adu.setProgress (a : Adu) (l : LinearAxis) (p : AxisProgress) : Adu :=
  match a.move with
  | none => a
  | some m =>
    match m.goal l with
    | none => a
    | some g => { a with move := some (m.setGoal l { g with progress := p }) }

/-- The progress of an axis in a move that is being driven (R74): none before the grant, so that a fault in CLAIMING is taken outside
the move (R88, log 37). -/
def Adu.progressOf (a : Adu) (l : LinearAxis) : Option AxisProgress :=
  a.move.bind fun m => if m.cond = .driving then (m.goal l).map (·.progress) else none

/-- A move with every axis ARRIVED from the order on (R74). -/
def Adu.noMotion (a : Adu) (m : Move) : Bool :=
  (m.turret.all fun g => a.turret == .at g.target) && (m.x.all fun g => a.x.standsAt g.target)
    && (m.y.all fun g => a.y.standsAt g.target) && (m.f.all fun g => a.f.standsAt g.target)

/-- A move with one progress on every axis. -/
def Move.withProgress (m : Move) (p : AxisProgress) : Move :=
  { m with
    turret := m.turret.map fun g => { g with progress := p }
    x := m.x.map fun g => { g with progress := p }
    y := m.y.map fun g => { g with progress := p }
    f := m.f.map fun g => { g with progress := p } }

/-- A target inside Xmin to Xmax or Ymin to Ymax (R74). -/
def insideX (s : StageSection) (x : Int) : Bool :=
  withinInt s.xMin s.xMax x
def insideY (s : StageSection) (y : Int) : Bool :=
  withinInt s.yMin s.yMax y

/-- A phase move to a turret position (R28, R77). -/
def Move.toTurret (p : TurretPos) : Move :=
  { kind := .phase, seq := none, turret := some { target := p, progress := .driving }, x := none, y := none
    f := some { target := 0, progress := .driving }, cond := .claiming, stopMark := false, faultMark := false
    claimless := false }

/-- A point move (R29). -/
def Move.toPoint (q : Seq) (x y : Int) : Move :=
  { kind := .point, seq := some q, turret := none, x := some { target := x, progress := .driving }
    y := some { target := y, progress := .driving }, f := none, cond := .claiming, stopMark := false
    faultMark := false, claimless := false }

/-- A view move (R32); the focus target is clamped (R74). -/
def Move.toView (q : Seq) (x y height : Int) : Move :=
  { kind := .view, seq := some q, turret := none, x := some { target := x, progress := .driving }
    y := some { target := y, progress := .driving }, f := some { target := clampHeight height, progress := .driving }
    cond := .claiming, stopMark := false, faultMark := false, claimless := false }

/-! ### Starting the index (R77, R78) -/

/-- The turret starts toward the move's target, once the focus stands at 0. A turret already there is ARRIVED. -/
def Adu.startIndex (a : Adu) (now : Stamp) : Adu :=
  match a.move.bind (·.turret) with
  | none => a
  | some g =>
    match a.turret with
    | .at c =>
      if c = g.target then a.setTurretProgress .arrived
      else { a with turret := .indexing (some c) (shorterWay c g.target), gap := some now }
    | .unknown =>
      { a with turret := .indexing none .forward, gap := some now, homingCount := 0 }.setTurretProgress .homing
    | .indexing _ _ => a

/-- The retract of a phase move is over and its index waits to be started. -/
def Move.indexWaits (m : Move) : Bool :=
  m.cond == .driving && (m.turret.any fun g => g.progress == .driving) && (m.f.any fun g => g.progress == .arrived)

/-- The index starts in the event in which the focus arrives at 0 (R77). -/
def Adu.followRetract (a : Adu) (now : Stamp) : Adu :=
  if a.move.any Move.indexWaits && !a.turret.isIndexing then a.startIndex now else a

/-! ### Stop commands (R86, R87) -/

/-- A stage or focus axis sent its stop command. -/
def Adu.stopAxis (a : Adu) (now : Stamp) (l : LinearAxis) : Adu :=
  match a.progressOf l with
  | some .homing | some .driving =>
    (a.setAxis l { a.axis l with timer := some now, cmd := some .stop }).setProgress l .stopping
  | some .arrived | some .stopping | some .stopped | some .faulted | none => a

/-- The turret of a stopping move: INDEXING, it runs on to its next pulse; its index not started, it is STOPPED at once. -/
def Adu.stopTurret (a : Adu) : Adu :=
  match a.move.bind (·.turret) with
  | none => a
  | some g =>
    match g.progress with
    | .homing | .driving => a.setTurretProgress (if a.turret.isIndexing then .stopping else .stopped)
    | .arrived | .stopping | .stopped | .faulted => a

/-- Every axis of the move in hand stops. -/
def Adu.stopAxes (a : Adu) (now : Stamp) : Adu :=
  (((a.stopAxis now .stageX).stopAxis now .stageY).stopAxis now .focus).stopTurret

/-! ### Index pulses (R77, R78) -/

/-- What an index pulse does to an INDEXING turret. -/
inductive PulseEffect where
  | arrives (p : TurretPos)
  | goesOn (counted : Option TurretPos) (direction : Direction) (homingCount : Nat)
  | fault
  deriving DecidableEq, Repr

/-- The turret at a counted position that agrees with its mark: it arrives at its target, or at once when it is stopping
(R77, R86); otherwise it goes on by `way`. -/
def pulseAt (stopping : Bool) (target c : TurretPos) (way : Direction) (homingCount : Nat) : PulseEffect :=
  if stopping = true ∨ c = target then .arrives c else .goesOn (some c) way homingCount

/-- An index pulse taken while INDEXING. -/
def pulseEffect (stopping : Bool) (target : TurretPos) (counted : Option TurretPos) (d : Direction) (homingCount : Nat)
    (mark : Bool) : PulseEffect :=
  match counted with
  | some c =>
    let c' := nextPosition d c
    if mark != (c' == 0) then .fault else pulseAt stopping target c' d homingCount
  | none =>
    if mark then pulseAt stopping target 0 (shorterWay 0 target) homingCount
    else if 8 ≤ homingCount then .fault
    else .goesOn none d (homingCount + 1)

end Sys2Proof.Machine
end

