-- ==== Sys2Proof/Machine/Load.lean ====
section
/-! DEFINITION. The Load Unit inside itself: force word, contact detector, ramps, dwell accounts, end cause, indent part
(chapter 5). What an indent's end does elsewhere is in Machine/Station.lean. -/

namespace Sys2Proof.Machine

/-! ### The force path (R90 to R92) -/

/-- The sum of the window's samples. -/
def windowSum (window : List Sample) : Int :=
  window.foldl (fun n s => n + s.toInt) 0

/-- The force word before clamping (R90). -/
def rawForce (window : List Sample) (tare : Int) (scale : Nat) : Int :=
  roundHalfUp ((windowSum window - 16 * tare) * scale) 16777216

/-- A force word beyond ±32,767 is saturated (R91). -/
def saturated (raw : Int) : Bool :=
  decide (raw < -32767) || decide (32767 < raw)

/-- The tare taken at the grant: the mean of the window (R92). -/
def windowMean (window : List Sample) : Int :=
  roundHalfUp (windowSum window) 16

/-- A sample joins the window at its newest end, the oldest leaves, and the force word follows; the silence timer restarts
when it runs (R90, R108). -/
def Ldu.takeSample (l : Ldu) (now : Stamp) (scale : Nat) (sample : Sample) : Ldu :=
  let window := l.window.drop 1 ++ [sample]
  { l with
    window := window
    word := clampInt (-32767) 32767 (rawForce window l.tare scale)
    silence := l.silence.map fun _ => now }

/-! ### The contact detector (R93) -/

/-- What a force word does to the detector. -/
inductive ContactChange where
  | none
  | declared
  | released
  deriving DecidableEq, Repr

/-- The detector after the force word in hand. -/
def Ldu.detect (l : Ldu) (c : LoadSection) : Ldu :=
  if l.touching then
    if l.word < c.releaseThreshold then
      if c.releaseCount ≤ l.runCount + 1 then { l with touching := false, runCount := 0 }
      else { l with runCount := l.runCount + 1 }
    else { l with runCount := 0 }
  else if (c.contactThreshold : Int) ≤ l.word then
    if c.declareCount ≤ l.runCount + 1 then { l with touching := true, runCount := 0 }
    else { l with runCount := l.runCount + 1 }
  else { l with runCount := 0 }

/-- The change between two detector states. -/
def contactChange (before after : Bool) : ContactChange :=
  match before, after with
  | false, true => .declared
  | true, false => .released
  | true, true | false, false => .none

/-! ### Ramps, band, limits (R98, R99, R103, R106) -/

/-- The step interval in ticks (R96). -/
def stepInterval (c : LoadSection) : Nat :=
  10000 / c.approachSpeed

/-- The rising ramp target (R98). -/
def risingTarget (c : LoadSection) (l : Ldu) (now : Stamp) (force : Nat) : Int :=
  min (force : Int) (l.rampForce + (c.rampRate * elapsed now l.rampStamp / 10000 : Nat))

/-- The falling ramp target (R103). -/
def fallingTarget (c : LoadSection) (l : Ldu) (now : Stamp) : Int :=
  max 0 (l.rampForce - (c.rampRate * elapsed now l.rampStamp * (if l.abort then 4 else 1) / 10000 : Nat))

/-- The band half-width B (R98). -/
def bandHalf (c : LoadSection) (force : Nat) : Nat :=
  max 1 (roundHalfUpNat (force * c.band) 1000)

/-- The force word lies inside the band (R98). -/
def insideBand (c : LoadSection) (force : Nat) (word : Int) : Bool :=
  withinInt (force - bandHalf c force) (force + bandHalf c force) word

/-- The RAMPSLOW limit (R99). -/
def rampSlowLimit (c : LoadSection) (force : Nat) (contactForce : Int) : Nat :=
  2 * ((force : Int) - contactForce).toNat * 10000 / c.rampRate + 10000

/-- The overload level (R106). -/
def overloadLevel (force : Nat) : Nat :=
  force * 11 / 10

/-! ### The actuator (R94) -/

/-- One step toward the specimen; none at the travel limit (R97, R98). -/
def Ldu.advance (l : Ldu) (c : LoadSection) : Ldu :=
  if l.pos < c.travelLimit then { l with pos := l.pos + 1 } else l

/-- One step away from the specimen; none at 0. -/
def Ldu.retreat (l : Ldu) : Ldu :=
  { l with pos := l.pos - 1 }

/-- The peak force takes the word when it is larger (R94). -/
def Ldu.notePeak (l : Ldu) : Ldu :=
  { l with peak := max l.peak l.word }

/-! ### The indent part and the end cause (R102, R105) -/

/-- The mean dwell force: 0 when nothing was accumulated (R102, R105). -/
def Ldu.mean (l : Ldu) : Int :=
  if l.count = 0 then 0 else roundHalfUp l.sum.toInt l.count.toNat

/-- The indent part as it is filled in an event; absent without contact (R102, R105). -/
def Ldu.fillPart (l : Ldu) (now : Stamp) : Option IndentPart :=
  l.contact.map fun k =>
    { stamp := now, mean := l.mean, peak := l.peak, excursions := l.excursions, depth := (l.pos : Int) - k.pos }

/-- An end cause is taken when none is set: the indent part is filled with it (R105). -/
def Ldu.setCause (l : Ldu) (now : Stamp) (r : Reason) : Ldu :=
  match l.cause with
  | none => { l with cause := some r, part := l.fillPart now }
  | some _ => l

/-- UNLOADING begins, NORMAL or ABORT, from the force word last taken (R103). -/
def Ldu.unload (l : Ldu) (now : Stamp) (abort : Bool) : Ldu :=
  { l with phase := .unloading, abort := abort, rampStamp := now, rampForce := l.word, step := none, rampSlow := none
           dwell := none }

/-- RETRACT begins: the step timer starts (R104). -/
def Ldu.retract (l : Ldu) (now : Stamp) : Ldu :=
  { l with phase := .retract, step := some now, rampSlow := none, dwell := none }

/-- The order is stored and every item of the indent cleared (R95). -/
def Ldu.takeOrder (l : Ldu) (now : Stamp) (o : IndentOrder) : Ldu :=
  { l with order := some o, contact := none, sum := 0, count := 0, peak := 0, excursions := 0, inBand := false
           dwellDone := false, cause := none, part := none, phase := .waitGrant, silence := some now }

/-- The grant (R96): tare, detector, APPROACH. The first step is issued when the step timer first expires (R96 step 4, log 34). -/
def Ldu.begin_ (l : Ldu) (now : Stamp) : Ldu :=
  { l with tare := windowMean l.window, touching := false, runCount := 0, phase := .approach, step := some now }

/-- The declaration of contact (R97, R99). -/
def Ldu.declare (l : Ldu) (c : LoadSection) (now : Stamp) (force : Nat) : Ldu :=
  { l with contact := some { pos := l.pos, force := l.word }, peak := l.word, rampStamp := now, rampForce := l.word
           phase := .loading, step := none, rampSlow := some { start := now, limit := rampSlowLimit c force l.word } }

/-- The dwell is entered with the force word in hand as its first (R100). -/
def Ldu.enterDwell (l : Ldu) (now : Stamp) : Ldu :=
  { l.notePeak with phase := .dwell, rampSlow := none, dwell := some now, sum := BitVec.ofInt 48 l.word, count := 1
                    inBand := true }

/-- A force word joins the accumulator (R100). -/
def Ldu.accumulate (l : Ldu) : Ldu :=
  { l.notePeak with sum := l.sum + BitVec.ofInt 48 l.word, count := l.count + 1 }

/-- The regulator of the dwell (R100). -/
def Ldu.regulate (l : Ldu) (c : LoadSection) (force : Nat) : Ldu :=
  if l.word < force then l.advance c
  else if (force : Int) + bandHalf c force < l.word then l.retreat
  else l

/-- The end of the dwell (R102). -/
def Ldu.endDwell (l : Ldu) (now : Stamp) : Ldu :=
  { l with dwellDone := true, part := l.fillPart now }.unload now false

/-- The actuator at rest: the indent is over and its items are cleared (R104, R111, log 15). -/
def Ldu.rest (l : Ldu) : Ldu :=
  { l with phase := .rest, order := none, pos := 0, contact := none, sum := 0, count := 0, peak := 0, excursions := 0
           inBand := false, dwellDone := false, cause := none, part := none, step := none, rampSlow := none, dwell := none
           silence := none }

/-- The actuator drive (R94): driven and holding from APPROACH to RETRACT. -/
def Ldu.driven (l : Ldu) : Bool :=
  match l.phase with
  | .rest | .waitGrant => false
  | .approach | .loading | .dwell | .unloading | .retract => true

/-! ### The outcome (R110) -/

/-- What the LDU delivers. -/
inductive IndentOutcome where
  | success (part : Option IndentPart)
  | failure (reason : Reason) (part : Option IndentPart)
  | halted (part : Option IndentPart)
  deriving DecidableEq, Repr

/-- The outcome of an indent at rest. -/
def Ldu.outcome (l : Ldu) : IndentOutcome :=
  match l.cause with
  | none => .success l.part
  | some .halted => .halted l.part
  | some r => .failure r l.part

end Sys2Proof.Machine
end

