-- ==== Sys2Proof/Machine/Sequencer.lean ====
section
/-! DEFINITION. The Run Sequencer's placements: what it does with each outcome a unit delivers (chapters 1 and 2). Nothing
here orders a move, an indent or a capture: Machine/Station.lean does, at the end of the event (log 29). -/

namespace Sys2Proof.Machine

/-! ### Leaving a place -/

/-- A point leaves whatever slot or list of the group holds it. -/
def Rsq.remove (r : Rsq) (q : Seq) : Rsq :=
  { r with
    groupList := r.groupList.filter fun m => m != q
    next := if r.next.map (·.seq) = some q then none else r.next
    now := if r.now.map (·.seq) = some q then none else r.now
    last := if r.last.map (·.seq) = some q then none else r.last }

/-- A point reaches a terminal state: its record, the Result Queue, no place in the group (R6, R7, R11). -/
def Rsq.finishPoint (r : Rsq) (q : Seq) (st : PointState) (reason : Option Reason) : Rsq :=
  ((r.remove q).modify q (Point.withEnd st reason)).enqueueResult q

/-- A point becomes FAILED and is counted (R6, R7). -/
def failPoint (e : Site) (q : Seq) (reason : Reason) (b : Blocks) : Blocks :=
  count e .pointsFailed (b.withRsq (b.rsq.finishPoint q .failed (some reason)))

/-- A point returns INDENTED to the Group List, in group order (R40). -/
def Rsq.returnPoint (r : Rsq) (q : Seq) : Rsq :=
  ((r.remove q).modify q (Point.withState .indented)).returnToGroup q

/-! ### The handover to the GGU (R34, R145) -/

/-- The measurement record of a point and its capture values (R145). -/
def Measurement.of (cfg : Settings) (p : Point) (v : CaptureValues) : Measurement :=
  { seq := p.plan.seq, bank := v.bank, tool := cfg.tools[p.plan.indenter].kind, scale := cfg.tools[p.plan.objective].scale
    revRow := cfg.tools[p.plan.objective].revRow, windowTop := p.progress.windowTop
    force := (p.indent.map (·.mean)).getD 0, low := p.plan.low, high := p.plan.high, x := p.plan.x, y := p.plan.y
    values := v, asymmetry := cfg.image.asymmetry, spacing := cfg.image.spacing }

/-- A CAPTURED point enters an empty LAST: the point and the bank become MEASURING, the GGU takes the handover (R34, R125). -/
def enterLast (e : Site) (b : Blocks) : Blocks :=
  match b.rsq.now, b.rsq.last with
  | some { seq := q, cond := .captured v }, none =>
    { b with
      rsq := { b.rsq.modify q (Point.withState .measuring) with now := none, last := some { seq := q, values := v } }
      riu := b.riu.setBank v.bank .measuring
      ggu := (b.rsq.find q).map fun p => Measurement.of e.cfg p v }
  | _, _ => b

/-! ### The indent's outcome (R31, R41) -/

/-- The LDU's delivery for the NOW point. -/
def placeIndent (e : Site) (q : Seq) (o : IndentOutcome) (b : Blocks) : Blocks :=
  match o with
  | .success part =>
    let r := (b.rsq.remove q).modify q fun p => { p.withState .indented with indent := part }
    b.withRsq (if r.draining then r.returnToGroup q else { r with groupList := r.groupList ++ [q] })
  | .failure reason part =>
    failPoint e q reason (b.withRsq (b.rsq.modify q fun p => { p with indent := part }))
  | .halted part =>
    b.withRsq ((b.rsq.modify q fun p => { p with indent := part }).finishPoint q .cancelled (some .halted))

/-! ### Recapture (R35 to R38) -/

/-- The reasons whose recaptures have a budget of their own: ROWLOST 3, the others 2 (R35). -/
def Point.budgetLeft (p : Point) (reason : Reason) : Bool :=
  if reason = .rowLost then decide (p.progress.rowRecaptures < 3) else decide (p.progress.recaptures < 2)

/-- The count a recapture raises (R37 step 1). -/
def Point.countRecapture (reason : Reason) (p : Point) : Point :=
  if reason = .rowLost then
    { p with progress := { p.progress with rowRecaptures := p.progress.rowRecaptures + 1 } }
  else { p with progress := { p.progress with recaptures := p.progress.recaptures + 1 } }

/-- NEXT is flushed to the head of the Group List (R37 step 4). -/
def Rsq.flushNext (r : Rsq) : Rsq :=
  match r.next with
  | none => r
  | some n => { r with next := none, groupList := n.seq :: r.groupList }

/-- A recapture of `q` (R37): counted, returned INDENTED, NEXT flushed, into NEXT. -/
def recapture (e : Site) (q : Seq) (reason : Reason) (shiftsChanged : Bool) (b : Blocks) : Blocks :=
  let r := ((b.rsq.remove q).modify q fun p => (p.withState .indented).countRecapture reason).flushNext
  let cond : NextCond := if r.stageAt = some q ∧ shiftsChanged = false then .arrived else .pending
  count e .recaptures (b.withRsq { r with next := some { seq := q, cond := cond } })

/-! ### The capture's outcome (R34, R35, R43) -/

/-- What the RIU delivers (R121 to R124). -/
inductive CaptureOutcome where
  | success (values : CaptureValues)
  | failure (reason : Reason) (recapturable : Bool)
  | abandoned
  | axisFaultEnd
  deriving DecidableEq, Repr

/-- Focus-found after an outcome: set by success, cleared by FOCUSPOOR (R34, R35). -/
def Rsq.noteFocus (r : Rsq) (o : CaptureOutcome) : Rsq :=
  match o with
  | .success _ => { r with focusFound := true }
  | .failure reason _ => if reason = .focusPoor then { r with focusFound := false } else r
  | .abandoned | .axisFaultEnd => r

/-- A failed capture of `q`: recaptured, returned during a drain, or FAILED (R35, R43, log 11). -/
def placeCaptureFailure (e : Site) (q : Seq) (reason : Reason) (recapturable : Bool) (b : Blocks) : Blocks :=
  if recapturable && (b.rsq.find q).any fun p => p.budgetLeft reason then
    if b.rsq.draining then b.withRsq (b.rsq.returnPoint q) else recapture e q reason false b
  else failPoint e q reason b

/-- The RIU's delivery for the point `q` in NOW. -/
def placeCapture (e : Site) (q : Seq) (o : CaptureOutcome) (b : Blocks) : Blocks :=
  let b := b.withRsq (b.rsq.noteFocus o)
  match o with
  | .success v =>
    if b.rsq.draining && b.rsq.last.isSome then b.withRsq (b.rsq.returnPoint q)
    else enterLast e (b.withRsq { b.rsq with now := some { seq := q, cond := .captured v } })
  | .failure reason recapturable => placeCaptureFailure e q reason recapturable b
  | .abandoned => b.withRsq (b.rsq.returnPoint q)
  | .axisFaultEnd => b

/-! ### The measurement's outcome (R36, R38, R44) -/

/-- The record after a re-centring (R38). -/
def Point.recentre (rc : Recentring) (p : Point) : Point :=
  { p with
    progress :=
      { p.progress with
        windowTop := rc.top.getD p.progress.windowTop
        shiftX := p.progress.shiftX + rc.dx.getD 0
        shiftY := p.progress.shiftY + rc.dy.getD 0 } }

/-- The view position of a point: position plus objective offset plus shift (R32). -/
def Point.viewX (cfg : Settings) (p : Point) : Int :=
  p.plan.x + cfg.tools[p.plan.objective].offX + p.progress.shiftX
def Point.viewY (cfg : Settings) (p : Point) : Int :=
  p.plan.y + cfg.tools[p.plan.objective].offY + p.progress.shiftY

/-- The view position lies inside the stage limits (R38). -/
def Point.viewInside (cfg : Settings) (p : Point) : Bool :=
  insideX cfg.stage (p.viewX cfg) && insideY cfg.stage (p.viewY cfg)

/-- A CLIPPED outcome marked recapturable for the point `p` in LAST (R36 to R38, R44). -/
def placeClipped (e : Site) (p : Point) (rc : Recentring) (b : Blocks) : Blocks :=
  let q := p.plan.seq
  let p' := p.recentre rc
  if !p.budgetLeft .clipped || !p'.viewInside e.cfg then failPoint e q .clipped b
  else
    let b := b.withRsq (b.rsq.modify q (Point.recentre rc))
    if b.rsq.draining then b.withRsq (b.rsq.returnPoint q)
    else
      recapture e q .clipped (p'.progress.shiftX != p.progress.shiftX || p'.progress.shiftY != p.progress.shiftY) b

/-- The GGU's delivery for the point `q` in LAST. -/
def placeMeasurement (e : Site) (q : Seq) (o : GaugeOutcome) (b : Blocks) : Blocks :=
  match o with
  | .done res =>
    count e .pointsDone
      (b.withRsq ((b.rsq.modify q fun p => { p with result := some res }).finishPoint q .done none))
  | .noImpression => failPoint e q .noImpression b
  | .tooSmall => failPoint e q .tooSmall b
  | .clipped none => failPoint e q .clipped b
  | .clipped (some rc) =>
    match b.rsq.find q with
    | none => b
    | some p => placeClipped e p rc b

/-- The bank returns from MEASURING to FILLED, and a capture waiting for a bank chooses (R125). -/
def returnBank (e : Site) (k : BankId) (b : Blocks) : Blocks :=
  seekWaiting e (b.withRiu (if b.riu.tags[k].state = .measuring then b.riu.setBank k .filled else b.riu))

/-! ### The move's report (R30, R32, R42, R45) -/

/-- How a move ended (R75). -/
inductive MoveReport where
  | complete
  | stopped
  | faulted
  deriving DecidableEq, Repr

/-- The report a finished move makes (R75): a fault mark goes before the condition. -/
def Move.report (m : Move) : MoveReport :=
  if m.faultMark then .faulted else if m.cond = .endedStopped then .stopped else .complete

/-- A completed view move: stage-at, and NEXT ARRIVED when the point still travels there (R32, R37). -/
def Rsq.viewArrived (r : Rsq) (q : Seq) : Rsq :=
  { r with
    stageAt := some q
    next := if r.next = some { seq := q, cond := .travelling } then some { seq := q, cond := .arrived } else r.next }

/-- A completed point move: the point enters NOW, INDENTING, and its indent is ordered (R30, R95). -/
def startIndent (e : Site) (p : Point) (b : Blocks) : Blocks :=
  let q := p.plan.seq
  let b := { b with
    rsq := { b.rsq.modify q (Point.withState .indenting) with next := none, now := some { seq := q, cond := .indenting } }
    ldu := b.ldu.takeOrder e.now { seq := q, force := p.plan.force, dwell := p.plan.dwell } }
  claimArrives e { claimant := .ldu, work := some q } b

/-- The ADU's report of the move `m` (R30, R32, R42, R45). -/
def placeMove (e : Site) (m : Move) (report : MoveReport) (b : Blocks) : Blocks :=
  let b := b.withRsq { b.rsq with moveInFlight := none }
  match report, m.kind, m.seq with
  | .complete, .view, some q => b.withRsq (b.rsq.viewArrived q)
  | .complete, .point, some q =>
    match b.rsq.find q with
    | some p =>
      if b.rsq.next = some { seq := q, cond := .travelling } ∧ b.rsq.draining = false then startIndent e p b else b
    | none => b
  | _, _, _ => b

end Sys2Proof.Machine
end

