-- ==== Sys2Proof/Machine/Station.lean ====
section
/-! DEFINITION. What the blocks do to each other inside one event: ends of moves, indents and captures, the notices of a
drain, axis faults, grants, the flow of points through the slots, the collection and the RESETSTN clearing. -/

namespace Sys2Proof.Machine

/-! ### Moves end (R75, R86, R87) -/

/-- The ADU reports its finished move to the RSQ and empties the record (R75). -/
def reportMove (e : Site) (b : Blocks) : Blocks :=
  match b.adu.move with
  | none => b
  | some m => placeMove e m m.report (b.withAdu { b.adu with move := none })

/-- The motion of a driven move ends when every axis is ARRIVED, STOPPED or FAULTED: the BCU is told (R55), the record
becomes ENDED or ENDED-STOPPED (R75, R86). One ended by a fault, its stop mark clear, becomes ENDED (log 38). -/
def endMoveIfDone (e : Site) (b : Blocks) : Blocks :=
  match b.adu.move with
  | none => b
  | some m =>
    if m.cond = .driving ∧ m.allEnded = true then
      endMotion e (b.withAdu { b.adu with
        move := some { m with cond := if m.stopMark then .endedStopped else .ended } })
    else b

/-- The RSQ's stop notice (R86). A cancellation that crossed its grant leaves the record ENDED-STOPPED until the claim
has settled (log 22). -/
def stopMove (e : Site) (b : Blocks) : Blocks :=
  match b.adu.move with
  | none => b
  | some m =>
    if m.faultMark then b
    else
      match m.cond with
      | .claiming =>
        let b := cancelClaim e .adu (b.withAdu { b.adu with
          move := some { m with stopMark := true, cond := .endedStopped } })
        if b.bcu.holdsClaim .adu then b else reportMove e b
      | .driving =>
        endMoveIfDone e (b.withAdu ({ b.adu with move := some { m with stopMark := true } }.stopAxes e.now))
      | .ended => b.withAdu { b.adu with move := some { m with stopMark := true, cond := .endedStopped } }
      | .endedStopped => b

/-! ### Indents end (R104 to R110) -/

/-- The LDU enters REST: claim released or cancelled, outcome delivered, order none (R104, R110). -/
def endIndent (e : Site) (b : Blocks) : Blocks :=
  let o := b.ldu.outcome
  let q := b.ldu.order.map (·.seq)
  let b := cancelClaim e .ldu (b.withLdu b.ldu.rest)
  match q with
  | none => b
  | some q => placeIndent e q o b

/-- RETRACT is entered; at position 0 it arrives at once (R104). -/
def enterRetract (e : Site) (b : Blocks) : Blocks :=
  let b := b.withLdu (b.ldu.retract e.now)
  if b.ldu.pos = 0 then endIndent e b else b

/-- A reason is taken as the end cause; LOADFAIL is raised when it is the first (R105). -/
def failIndent (e : Site) (r : Reason) (b : Blocks) : Blocks :=
  match b.ldu.cause with
  | none => raise e .loadFail (b.withLdu (b.ldu.setCause e.now r))
  | some _ => b

/-- The abort unload with an end cause (R103, R105). -/
def abortUnload (e : Site) (r : Reason) (b : Blocks) : Blocks :=
  let b := failIndent e r b
  b.withLdu (b.ldu.unload e.now true)

/-- The halt notice (R109). HALTED raises no LOADFAIL. -/
def haltIndent (e : Site) (b : Blocks) : Blocks :=
  match b.ldu.phase with
  | .waitGrant => endIndent e (b.withLdu (b.ldu.setCause e.now .halted))
  | .approach => enterRetract e (b.withLdu (b.ldu.setCause e.now .halted))
  | .loading | .dwell => b.withLdu ((b.ldu.setCause e.now .halted).unload e.now true)
  | .unloading | .retract | .rest => b

/-! ### Captures end (R114, R121 to R124) -/

/-- The capture in progress ends and its outcome is delivered. -/
def endCapture (e : Site) (o : CaptureOutcome) (b : Blocks) : Blocks :=
  match b.riu.capture with
  | none => b
  | some c => placeCapture e c.seq o (closeCapture e b)

/-- ROWLOST (R114): the capture ends, recapturable. -/
def loseRow (e : Site) (b : Blocks) : Blocks :=
  endCapture e (.failure .rowLost true) (raise e .rowLost b)

/-- The abandon notice (R124): at once while nothing is being stepped or framed; otherwise the mark waits. -/
def abandonCapture (e : Site) (b : Blocks) : Blocks :=
  match b.riu.capture with
  | none => b
  | some c =>
    let b := b.withRiu { b.riu with capture := some { c with abandon := true } }
    match c.cond with
    | .waitLamp | .waitBank | .claiming | .awaitFrame => endCapture e .abandoned b
    | .stepping | .framing => b

/-- The abandon notice to the GGU (R158): the point returns INDENTED, its bank stays MEASURING (R46, R125). -/
def abandonMeasurement (b : Blocks) : Blocks :=
  match b.ggu with
  | none => b
  | some m => { b with ggu := none, rsq := b.rsq.returnPoint m.seq }

/-! ### The drain starts; axis faults (R23, R40 to R46) -/

/-- The notice of a drain to the point in NOW (R41, R43). -/
def drainNow (e : Site) (b : Blocks) : Blocks :=
  match b.rsq.now with
  | none => b
  | some n =>
    match n.cond with
    | .indenting => haltIndent e b
    | .capturing => abandonCapture e b
    | .captured _ => b.withRsq (b.rsq.returnPoint n.seq)

/-- A drain starts (R40): every operation in flight has its notice; the GGU's only under RESETSTN (R46). -/
def startDrain (e : Site) (b : Blocks) : Blocks :=
  let b := b.withRsq { b.rsq with draining := true }
  let b := drainNow e (stopMove e b)
  if b.phase = .resetting then abandonMeasurement b else b

/-- The RSQ takes an axis fault, in RUNNING and in STOPPING (R23, R45). -/
def takeAxisFault (e : Site) (victim : Option Seq) (b : Blocks) : Blocks :=
  match b.rsq.run with
  | .running | .stopping =>
    let b := match victim with
      | none => b
      | some q => failPoint e q .axisFault b
    let b := b.withRsq { b.rsq with run := .stopping }
    if b.rsq.draining then b else startDrain e b
  | .empty | .loaded | .halted | .finished => b

/-- A fault on an axis of the move in hand, its axis already FAULTED (R87). -/
def takeMoveFault (e : Site) (b : Blocks) : Blocks :=
  match b.adu.move with
  | none => b
  | some m =>
    let b' := if m.faultMark then b
      else takeAxisFault e m.seq (b.withAdu { b.adu with move := some { m with faultMark := true } })
    endMoveIfDone e (b'.withAdu (b'.adu.stopAxes e.now))

/-- A stage or focus axis of a driven move faults (R82, R83, R87). -/
def faultAxis (e : Site) (l : LinearAxis) (b : Blocks) : Blocks :=
  takeMoveFault e (raise e (axisNotice l)
    (b.withAdu ((b.adu.setAxis l (b.adu.axis l).lose).setProgress l .faulted)))

/-- A stage or focus axis faults outside any move or step (R88). -/
def faultIdleAxis (e : Site) (l : LinearAxis) (b : Blocks) : Blocks :=
  raise e (axisNotice l) (b.withAdu (b.adu.setAxis l (b.adu.axis l).lose))

/-- The turret faults: UNKNOWN, drive withdrawn, gap timer stopped (R79); within a move, the move takes it (R87). -/
def faultTurret (e : Site) (b : Blocks) : Blocks :=
  let indexing := b.adu.turret.isIndexing
  let b := raise e .turretFault (b.withAdu { b.adu with turret := .unknown, gap := none })
  if indexing then takeMoveFault e (b.withAdu (b.adu.setTurretProgress .faulted)) else b

/-! ### Focus steps (R84, R122) -/

/-- The focus step in hand fails, or fails in its order event: the focus is unknown, the RIU ends its capture, the RSQ
fails the NOW point (R45, R84, R122).  DESIGN CHOICE (log 41): R122 lets the two reports reach the RSQ in either order; here
the capture ends and releases QUIET first, so the IDLE frame placed at the release carries the run state from before
STOPPING.  Safe. -/
def failStep (e : Site) (b : Blocks) : Blocks :=
  let victim := b.riu.capture.map (·.seq)
  let b := raise e .focusFault (b.withAdu { b.adu with f := b.adu.f.lose, step := none })
  takeAxisFault e victim (endCapture e .axisFaultEnd b)

/-- The ADU takes a step order (R84). -/
def orderStep (e : Site) (height : Int) (b : Blocks) : Blocks :=
  let target := clampHeight height
  if !b.adu.f.known then failStep e b
  else if b.adu.f.pos = target then b.withAdu { b.adu with step := some { target := target, noop := true } }
  else
    b.withAdu { b.adu with
      f := { b.adu.f with timer := some e.now, cmd := some (.drive target) }
      step := some { target := target, noop := false } }

/-- The ADU reports a step done: the capture waits for a frame, or is abandoned (R120, R124). -/
def stepDone (e : Site) (b : Blocks) : Blocks :=
  let b := b.withAdu { b.adu with step := none }
  match b.riu.capture with
  | none => b
  | some c =>
    if c.cond = .stepping then
      if c.abandon then endCapture e .abandoned b
      else b.withRiu { b.riu with capture := some { c with cond := .awaitFrame } }
    else b

/-- The next frame of the capture begins with a step to the height the search names (R120 step 1). -/
def stepToHeight (e : Site) (b : Blocks) : Blocks :=
  match b.riu.capture, b.egu.search with
  | some c, some s => orderStep e s.height (b.withRiu { b.riu with capture := some { c with cond := .stepping } })
  | _, _ => b

/-! ### Grants (R75, R96, R120, R140) -/

/-- The motion grant reaches the ADU (R75). -/
def grantMotion (e : Site) (b : Blocks) : Blocks :=
  match b.adu.move with
  | none => b
  | some m =>
    if m.cond = .claiming then
      if m.stopMark then b.withAdu { b.adu with move := some { m with cond := .endedStopped } }
      else
        let a := { b.adu with move := some { m with cond := .driving } }
        let a := ((a.startAxis e.now .stageX).startAxis e.now .stageY).startAxis e.now .focus
        endMoveIfDone e (b.withAdu (a.followRetract e.now))
    else b

/-- The quiet grant reaches the LDU (R96). -/
def grantIndent (e : Site) (b : Blocks) : Blocks :=
  if b.ldu.phase = .waitGrant ∧ b.ldu.cause = none then b.withLdu (b.ldu.begin_ e.now) else b

/-- The quiet grant reaches the RIU: camera timer, search record, first step (R120, R140). -/
def grantCapture (e : Site) (b : Blocks) : Blocks :=
  match b.riu.capture with
  | none => b
  | some c =>
    if c.cond = .claiming then
      stepToHeight e { b with
        riu := { b.riu with camera := some e.now }
        egu := { b.egu with
          search := some (Search.start c.search b.adu.memory[c.objective] e.cfg.image.focusStep) } }
    else b

/-- The quiet claim is granted: QUIET is announced and the claimant told (R57). -/
def grantQuiet (e : Site) (b : Blocks) : Blocks :=
  let b := enterOwn e .quiet (b.withBcu { b.bcu with sense := none })
  match b.bcu.active with
  | none => b
  | some c =>
    match c.claimant with
    | .ldu => grantIndent e b
    | .riu => grantCapture e b
    | .adu => b

/-! ### Orders (R28, R29, R32, R33, R74) -/

/-- The ADU takes a move order: limit check, no-motion case, or claim (R74). -/
def takeMoveOrder (e : Site) (m : Move) (b : Blocks) : Blocks :=
  let badX := m.x.any fun g => !insideX e.cfg.stage g.target
  let badY := m.y.any fun g => !insideY e.cfg.stage g.target
  if badX || badY then
    let m' := { m.withProgress .stopped with cond := .ended, faultMark := true, claimless := true }
    let m' := if badX then { m' with x := m'.x.map fun g => { g with progress := .faulted } } else m'
    let m' := if badY then { m' with y := m'.y.map fun g => { g with progress := .faulted } } else m'
    takeAxisFault e m.seq (raise e .stageFault (b.withAdu { b.adu with move := some m' }))
  else if b.adu.noMotion m then
    b.withAdu { b.adu with move := some { m.withProgress .arrived with cond := .ended, claimless := true } }
  else
    claimArrives e { claimant := .adu, work := m.seq } (b.withAdu { b.adu with move := some m })

/-- The RSQ orders a move: the move in flight is set, stage-at cleared (R27 to R29, R32). -/
def orderMove (e : Site) (ref : MoveRef) (m : Move) (b : Blocks) : Blocks :=
  takeMoveOrder e m (b.withRsq { b.rsq with moveInFlight := some ref, stageAt := none })

/-- NEXT takes the head of the Group List as PENDING (R29, R32). -/
def Rsq.fillNext (r : Rsq) : Rsq :=
  match r.next, r.groupList with
  | none, q :: rest => { r with next := some { seq := q, cond := .pending }, groupList := rest }
  | _, _ => r

/-- NEXT becomes TRAVELLING. -/
def Rsq.travel (r : Rsq) : Rsq :=
  { r with next := r.next.map fun n => { n with cond := .travelling } }

/-- The point of a PENDING NEXT. -/
def Rsq.pendingPoint (r : Rsq) : Option Point :=
  match r.next with
  | some { seq := q, cond := .pending } => r.find q
  | some { seq := _, cond := .travelling } | some { seq := _, cond := .arrived } | none => none

/-- The point of an ARRIVED NEXT. -/
def Rsq.arrivedPoint (r : Rsq) : Option Point :=
  match r.next with
  | some { seq := q, cond := .arrived } => r.find q
  | some { seq := _, cond := .travelling } | some { seq := _, cond := .pending } | none => none

/-- NOW is empty or CAPTURED: a view move may be ordered (R32). -/
def Rsq.nowIdle (r : Rsq) : Bool :=
  match r.now with
  | none => true
  | some { seq := _, cond := .captured _ } => true
  | some { seq := _, cond := .indenting } | some { seq := _, cond := .capturing } => false

/-- The head of the Group List is WAITING (R29). -/
def Rsq.headWaiting (r : Rsq) : Bool :=
  match r.groupList with
  | [] => false
  | q :: _ => r.stateOf q == some .waiting

/-- A PENDING point's point move, once NOW is empty and no move is in flight (R29). -/
def orderPointMove (e : Site) (b : Blocks) : Blocks :=
  match b.rsq.pendingPoint with
  | none => b
  | some p =>
    if b.rsq.now = none ∧ b.rsq.moveInFlight = none ∧ b.rsq.draining = false then
      orderMove e (.point p.plan.seq)
        (Move.toPoint p.plan.seq (p.plan.x + e.cfg.tools[p.plan.indenter].offX)
          (p.plan.y + e.cfg.tools[p.plan.indenter].offY))
        (b.withRsq b.rsq.travel)
    else b

/-- A PENDING point's view move, once NOW is empty or CAPTURED and no move is in flight (R32). -/
def orderViewMove (e : Site) (b : Blocks) : Blocks :=
  match b.rsq.pendingPoint with
  | none => b
  | some p =>
    if b.rsq.nowIdle = true ∧ b.rsq.moveInFlight = none ∧ b.rsq.draining = false then
      orderMove e (.point p.plan.seq)
        (Move.toView p.plan.seq (p.viewX e.cfg) (p.viewY e.cfg) b.adu.memory[p.plan.objective])
        (b.withRsq b.rsq.travel)
    else b

/-- An ARRIVED point enters an empty NOW and its capture is ordered (R33). -/
def startCapture (e : Site) (b : Blocks) : Blocks :=
  match b.rsq.arrivedPoint with
  | none => b
  | some p =>
    if b.rsq.now = none ∧ b.rsq.draining = false then
      let search : SearchKind := if b.rsq.focusFound then .short else .full
      orderCapture e p search (b.withRsq { b.rsq.modify p.plan.seq (Point.withState .viewing) with
        next := none, now := some { seq := p.plan.seq, cond := .capturing } })
    else b

/-! ### The flow of points (R29 to R36) -/

/-- The indent phase flows: NEXT is filled while the head is WAITING, its move ordered. -/
def flowIndent (e : Site) (b : Blocks) : Blocks :=
  if b.rsq.moveInFlight = some .phaseMove ∨ b.rsq.draining = true then b
  else orderPointMove e (if b.rsq.headWaiting then b.withRsq b.rsq.fillNext else b)

/-- The view phase flows: LAST, NOW and NEXT are filled in that order, and a view move ordered (R33, R34, R36). -/
def flowView (e : Site) (b : Blocks) : Blocks :=
  if b.rsq.moveInFlight = some .phaseMove ∨ b.rsq.draining = true then b
  else
    let b := startCapture e (enterLast e b)
    orderViewMove e (b.withRsq b.rsq.fillNext)

/-- A phase begins: point flow at once when the turret stands there, otherwise the phase move (R28). -/
def beginPhase (e : Site) (phase : GroupPhase) (g : Group) (b : Blocks) : Blocks :=
  let need := match phase with
    | .indent => g.indenter
    | .view => g.objective
  let b := b.withRsq { b.rsq with phase := some phase }
  if b.adu.turret = .at need then
    match phase with
    | .indent => flowIndent e b
    | .view => flowView e b
  else orderMove e .phaseMove (Move.toTurret need) b

/-- Two points may stand in one group (R14). -/
def Point.groupsWith (p q : Point) : Bool :=
  p.plan.group == q.plan.group && p.plan.indenter == q.plan.indenter && p.plan.objective == q.plan.objective
    && p.progress.state == q.progress.state

/-- The entries taken into a group that `head` heads (R14): at most 8, in order, up to the first that differs. -/
def Rsq.groupEntries (r : Rsq) (head : Point) : List Seq :=
  (r.orderList.take 8).takeWhile fun q => (r.find q).any fun p => head.groupsWith p

/-- Group formation at a boundary with the Order List's head (R14); with an empty list the run is FINISHED (R12). -/
def formGroup (e : Site) (b : Blocks) : Blocks :=
  match b.rsq.orderList.head?.bind b.rsq.find with
  | none => raise e .runFinished (b.withRsq { b.rsq with run := .finished })
  | some p =>
    let taken := b.rsq.groupEntries p
    let g : Group := { order := taken, indenter := p.plan.indenter, objective := p.plan.objective }
    beginPhase e (if p.progress.state = .indented then .view else .indent) g
      (b.withRsq { b.rsq with
        orderList := b.rsq.orderList.drop taken.length, groupList := taken, group := some g, focusFound := false })

/-- The run stops: HALTED while work remains, FINISHED otherwise, with its notice (R12). -/
def stopRun (e : Site) (b : Blocks) : Blocks :=
  if b.rsq.hasWork then raise e .runHalted (b.withRsq { b.rsq with run := .halted })
  else raise e .runFinished (b.withRsq { b.rsq with run := .finished })

/-- A group finishes (R17). -/
def finishGroup (e : Site) (b : Blocks) : Blocks :=
  let b := raise e .groupDone (b.withRsq { b.rsq with group := none, phase := none })
  if b.rsq.run = .running then formGroup e b else stopRun e b

/-- The indent phase is over: NEXT and NOW empty and no WAITING member (R15, R31). -/
def Rsq.indentOver (r : Rsq) : Bool :=
  r.moveInFlight.isNone && r.next.isNone && r.now.isNone && !(r.groupList.any fun q => r.stateOf q == some .waiting)

/-- The view phase is over: Group List and slots empty, no move in flight (R16, R36). -/
def Rsq.viewOver (r : Rsq) : Bool :=
  r.moveInFlight.isNone && r.groupList.isEmpty && r.next.isNone && r.now.isNone && r.last.isNone

/-- The pipeline at the end of an event: points flow, a phase or a group may end (R29 to R36, log 29). -/
def advance (e : Site) (b : Blocks) : Blocks :=
  match b.rsq.group, b.rsq.phase with
  | some g, some .indent =>
    let b := flowIndent e b
    if b.rsq.draining = false ∧ b.rsq.indentOver = true then
      if b.rsq.groupList.isEmpty then finishGroup e b else beginPhase e .view g b
    else b
  | some _, some .view =>
    let b := flowView e b
    if b.rsq.draining = false ∧ b.rsq.viewOver = true then finishGroup e b else b
  | _, _ => b

/-! ### The collection and the clearing (R20, R26) -/

/-- Nothing remains in flight (R20). -/
def nothingInFlight (b : Blocks) : Bool :=
  b.ldu.phase == .rest && b.riu.capture.isNone && b.ggu.isNone && b.rsq.moveInFlight.isNone

/-- The points of the interrupted group that are WAITING or INDENTED return to the head of the Order List as one block, in
group order; Group List and slots are emptied (R20). The group in progress and its phase end here, also where its last member had
already ended and left Group List and slots empty while a faulted move still settled: DESIGN CHOICE between R9 and R20 (log 43),
safe. -/
def Rsq.collect (r : Rsq) : Rsq :=
  let back := ((r.group.map (·.order)).getD []).filter fun q => (r.stateOf q).any PointState.open_
  { r with
    orderList := back ++ r.orderList, groupList := [], next := none, now := none, last := none, group := none
    phase := none, draining := false }

/-- The RIU's part of the clearing (R129). A readout in progress goes on (log 20). -/
def Riu.clear (r : Riu) : Riu :=
  { r with
    rows := [], capture := none, camera := none, port := r.port.stale, curRow := 0, curCol := 0
    tags := Vector.ofFn fun k : Fin 2 =>
      { r.tags[k] with state := .free, owner := none, serial := none, hold := false } }

/-- The RPU's part of the clearing (R176). -/
def Rpu.clear (_r : Rpu) : Rpu :=
  Rpu.reset

/-- The answer of the RESETSTN in hand, in its reserved place (R165, R181). -/
def answerReset (b : Blocks) : Blocks :=
  match b.resetSender with
  | none => b
  | some sender =>
    { b with
      resetSender := none
      lki := b.lki.answerReserved sender [BitVec.ofNat 8 ReqCode.resetstn.toByte, AnswerCode.done.code] }

/-- The RESETSTN clearing (R26, R129, R144, R176, R181). -/
def clearStation (b : Blocks) : Blocks :=
  answerReset
    { b with
      phase := .ready, rsq := Rsq.reset, riu := b.riu.clear, egu := Egu.reset, ggu := none, rpu := b.rpu.clear
      lki := b.lki.detachResult }

/-- The collection of R20, when nothing remains in flight; under RESETSTN the clearing follows (R26). -/
def collect (e : Site) (b : Blocks) : Blocks :=
  if b.rsq.draining = true ∧ nothingInFlight b = true then
    let b := b.withRsq b.rsq.collect
    if b.phase = .resetting then clearStation b else stopRun e b
  else b

/-- What follows when an event has done all else: the stuck-line watches and the port arbiter (R65, R117).  DESIGN CHOICE
(log 42): in the clearing event of RESETSTN the RPU is cleared first (R176) and the watches follow, so a LINESTUCK condition
that ends in that event sets its flag, under BOTH, after the clearing.  Unsafe. -/
def conclude (e : Site) (b : Blocks) : Blocks :=
  let b := settleLines e b
  b.withRiu b.riu.grantPort

/-- What follows in every event that can move the pipeline: the flow of points, the collection, the watches and the
arbiter. -/
def finish (e : Site) (b : Blocks) : Blocks :=
  conclude e (collect e (advance e b))

end Sys2Proof.Machine
end

