-- ==== Sys2Proof/Machine/Reports.lean ====
section
/-! DEFINITION. The bytes the station sends of its own state: READPT, READSTAT, READPEERS, READCOUNT answers (R170, R171,
R174), NOTICE and RESULT payloads (R173, R175). Fields wider than their place are sent as their low-order bytes (log 18). -/

namespace Sys2Proof.Machine

/-! ### Codes (R170, R171) -/

def PointState.code (st : PointState) : Nat :=
  match st with
  | .waiting => 0
  | .indenting => 1
  | .indented => 2
  | .viewing => 3
  | .measuring => 4
  | .done => 5
  | .failed => 6
  | .cancelled => 7

def Reason.code (r : Reason) : Nat :=
  match r with
  | .noContact => 1
  | .contactLost => 2
  | .overload => 3
  | .forceSat => 4
  | .rampSlow => 5
  | .unstable => 6
  | .cellSilent => 7
  | .noImpression => 8
  | .clipped => 9
  | .tooSmall => 10
  | .lowLight => 11
  | .focusPoor => 12
  | .rowLost => 13
  | .camSilent => 14
  | .axisFault => 15
  | .halted => 16

/-- A reason field: 0 when absent (R170). -/
def reasonCode (r : Option Reason) : Nat :=
  match r with
  | none => 0
  | some r => r.code

def Verdict.code (v : Verdict) : Nat :=
  match v with
  | .pass => 0
  | .low => 1
  | .high => 2
  | .noLimit => 3

def EdgeMode.code (m : EdgeMode) : Nat :=
  match m with
  | .outer => 0
  | .widest => 1

def PeerState.code (p : PeerState) : Nat :=
  match p with
  | .heard a => a.code
  | .absent => 6
  | .lost => 7

def OwnState.code (o : OwnState) : Nat :=
  match o with
  | .idle => 0
  | .waitMove => 1
  | .starting => 2
  | .checking => 3
  | .moving => 4
  | .settling => 5
  | .waitQuiet => 6
  | .holding => 7
  | .quiet => 8
  | .blocked => 9

def StationPhase.code (p : StationPhase) : Nat :=
  match p with
  | .unconfigured => 0
  | .ready => 1
  | .parked => 2
  | .resetting => 3

/-- The pipeline phase (R171): 0 when there is none. -/
def phaseCode (p : Option GroupPhase) : Nat :=
  match p with
  | none => 0
  | some .indent => 1
  | some .view => 2

def NextCond.code (c : NextCond) : Nat :=
  match c with
  | .pending => 1
  | .travelling => 2
  | .arrived => 3

def NowCond.code (c : NowCond) : Nat :=
  match c with
  | .indenting => 4
  | .capturing => 5
  | .captured _ => 6

def BankState.code (st : BankState) : Nat :=
  match st with
  | .free => 0
  | .target => 1
  | .filled => 2
  | .measuring => 3

/-- The turret as READSTAT reports it (R171). -/
def Turret.code (t : Turret) : Nat :=
  match t with
  | .at p => p.val
  | .indexing _ _ => 6
  | .unknown => 7

/-! ### Fields -/

/-- A one-byte field. -/
def be8 (n : Nat) : List Byte :=
  [BitVec.ofNat 8 n]

/-- A signed four-byte field, two's complement (R169). -/
def be32s (z : Int) : List Byte :=
  be32 (z % 4294967296).toNat

/-- A byte of flags. -/
def flagByte (b0 b1 b2 : Bool) : Byte :=
  bitIf 0 b0 ||| bitIf 1 b1 ||| bitIf 2 b2

/-- The result flags (R170). -/
def ResultPart.flags (r : ResultPart) : Byte :=
  flagByte r.asym r.split r.spacing

/-! ### READPT (R170) -/

/-- The plan part in the order and sizes of the ADDPT arguments, and the origin: 25 bytes. -/
def Plan.bytes (p : Plan) : List Byte :=
  be16 p.seq ++ be8 p.group ++ be32s p.x ++ be32s p.y ++ be8 p.indenter.val ++ be8 p.objective.val ++ be16 p.force
    ++ be16 p.dwell ++ be8 p.edge.code ++ [flagByte p.low.isSome p.high.isSome false] ++ be16 (optNat p.low)
    ++ be16 (optNat p.high) ++ be16 (optNat p.origin)

/-- The progress part: 9 bytes. -/
def Progress.bytes (p : Progress) : List Byte :=
  be8 p.state.code ++ be8 (reasonCode p.reason) ++ be8 p.recaptures ++ be8 p.rowRecaptures ++ be8 p.windowTop
    ++ be16s p.shiftX ++ be16s p.shiftY

/-- The indent part: 11 bytes, zeros when absent. -/
def indentBytes (i : Option IndentPart) : List Byte :=
  match i with
  | none => List.replicate 11 0
  | some i => be32 i.stamp.toNat ++ be16s i.mean ++ be16s i.peak ++ be8 i.excursions ++ be16s i.depth

/-- The result part: 23 bytes, zeros when absent. -/
def resultBytes (r : Option ResultPart) : List Byte :=
  match r with
  | none => List.replicate 23 0
  | some r =>
    be32 r.dH ++ be32 r.dV ++ be16 r.hardness ++ be8 r.verdict.code ++ [r.flags] ++ be16s r.offX ++ be16s r.offY
      ++ be32 r.stamp.toNat ++ be8 r.level ++ be16 r.height

/-- View PLAN: 34 bytes. -/
def Point.planView (p : Point) : List Byte :=
  p.plan.bytes ++ p.progress.bytes

/-- View RESULT: 37 bytes. -/
def Point.resultView (p : Point) : List Byte :=
  be8 p.progress.state.code ++ be8 (reasonCode p.progress.reason)
    ++ [flagByte p.indent.isSome p.result.isSome false] ++ indentBytes p.indent ++ resultBytes p.result

/-! ### READSTAT (R171) -/

/-- A slot: seq and condition, zeros when empty. -/
def slotField (slot : Option (Seq × Nat)) : List Byte :=
  match slot with
  | none => [0, 0, 0]
  | some (q, c) => be16 q ++ be8 c

/-- The three slots. -/
def Rsq.slotBytes (r : Rsq) : List Byte :=
  slotField (r.next.map fun n => (n.seq, n.cond.code)) ++ slotField (r.now.map fun n => (n.seq, n.cond.code))
    ++ slotField (r.last.map fun n => (n.seq, 7))

/-- A Bank Tag: 6 bytes. -/
def BankTag.bytes (t : BankTag) : List Byte :=
  be8 t.state.code ++ be16 (optNat t.owner) ++ be16 (optNat t.serial) ++ be8 t.hold.toNat

/-- The 32 data bytes of READSTAT. -/
def statData (b : Blocks) : List Byte :=
  be8 b.phase.code ++ be8 b.rsq.run.code ++ be8 b.bcu.own.code ++ be8 b.rsq.points.length ++ be8 b.rsq.orderList.length
    ++ be8 (phaseCode b.rsq.phase) ++ b.rsq.slotBytes ++ be8 b.adu.turret.code ++ be8 b.riu.lamp ++ be8 b.riu.rows.length
    ++ be8 b.riu.peakFill ++ b.riu.tags[0].bytes ++ b.riu.tags[1].bytes ++ [b.rpu.summary]

/-! ### READPEERS (R170) -/

/-- A Peer Table entry: 4 bytes. -/
def PeerEntry.bytes (p : PeerEntry) : List Byte :=
  be8 p.announced.code ++ be8 ((p.run.map (·.code)).getD 0) ++ be16 (optNat p.work)

/-- PEERLOST in bit 0, LINESTUCK in bit 1 (R170, R173). -/
def Bcu.conditionByte (c : Bcu) : Byte :=
  flagByte c.peerLost c.lineStuck false

/-- The data of one part of READPEERS. -/
def Bcu.peersData (c : Bcu) (part : Nat) : List Byte :=
  match part with
  | 0 => (c.peers.toList.take 8).flatMap PeerEntry.bytes
  | 1 => (c.peers.toList.drop 8).flatMap PeerEntry.bytes
  | _ => be8 c.own.code ++ [c.conditionByte] ++ be8 c.benchQueue.length ++ c.benchQueue.map fun s => BitVec.ofNat 8 s.val

/-! ### READCOUNT (R174), NOTICE (R173), RESULT (R175) -/

/-- The ten snapshots: 20 bytes. -/
def Rpu.snapshotData (r : Rpu) : List Byte :=
  r.snapshots.toList.flatMap be16

/-- The 8 bytes of a NOTICE. -/
def noticePayload (b : Blocks) : List Byte :=
  [b.rpu.summary] ++ b.rpu.flags.toList ++ [b.bcu.conditionByte]

/-- The 20 bytes of a RESULT. -/
def Point.resultPayload (p : Point) : List Byte :=
  be16 p.plan.seq ++ be8 p.progress.state.code ++ be8 (reasonCode p.progress.reason)
    ++ (match p.progress.state, p.result with
      | .done, some r => be32 r.dH ++ be32 r.dV ++ be16 r.hardness ++ be8 r.verdict.code ++ [r.flags]
      | _, _ => List.replicate 12 0)
    ++ be16s ((p.indent.map (·.mean)).getD 0) ++ be8 p.progress.recaptures ++ be8 p.progress.rowRecaptures

end Sys2Proof.Machine
end

