-- ==== Sys2Proof/Machine/Requests.lean ====
section
/-! DEFINITION. The requests: the Request Decoder's checks (R168), and the meaning of the sixteen request commands and of
BADCODE_REQUEST (chapters 1, 6, 10 and 11). -/

namespace Sys2Proof.Machine

/-- What a meaning answers. -/
abbrev Result := Host.Outcome State Fault Refusal

/-! ### The Request Decoder (R164, R168) -/

/-- The checks the decoder makes on a request whose code is known, in order (R168); none: it goes to its owner. -/
def screen (phase : StationPhase) (c : ReqCode) (r : Request) : Option AnswerCode :=
  if !r.lengthOk c then some .badArg
  else
    match phase with
    | .unconfigured => if c = .config ∨ c = .readstat ∨ c = .readpeers then none else some .notReady
    | .resetting => if c = .readstat then none else some .busy
    | .ready | .parked => none

/-- The request at the head of the Receive Buffer, when it is the one a command takes and the Answer Queue has a place. -/
def headRequest (code : Option ReqCode) (s : State) : Option Request :=
  match s.blk.lki.recv with
  | [] => none
  | r :: _ => if r.code = code ∧ s.blk.lki.hasPlace = true then some r else none

/-- The taken request leaves the Receive Buffer (R164). -/
def State.dropRequest (s : State) : State :=
  s.withBlk (s.blk.withLki { s.blk.lki with recv := s.blk.lki.recv.tail })

/-- An answer without an owner's other effects: a refusal, or a report (R168). -/
def State.reply (s : State) (r : Request) (a : AnswerCode) (data : List Byte) : State :=
  s.withBlk (answer r.sender (answerPayload r a data) s.blk)

/-- A request taken: screened, and served by its owner when it passes (R168). A command whose request is not at the head
changes nothing (log 3, log 4). -/
def takeRequest (c : ReqCode) (serve : Request → State → State) (s : State) : State :=
  match headRequest (some c) s with
  | none => s
  | some r =>
    match screen s.blk.phase c r with
    | some a => s.dropRequest.reply r a []
    | none => serve r s.dropRequest

/-! ### CONFIG (R178, R179) -/

/-- A section's received mark. -/
def State.markSection (s : State) (n : Nat) (got : Bool) : State :=
  { s with received := s.received.set (Fin.ofNat 6 (n - 1)) got }

/-- The configuration takes force (R179, pass). -/
def State.adopt (s : State) (cfg : Settings) : State :=
  let site := { s.site with cfg := cfg }
  let adu := { s.blk.adu with memory := Vector.ofFn fun p : Fin 6 => (cfg.tools[p].focusStart : Int) }
  { s with site := site, blk := settleLines site { s.blk with phase := .ready, adu := adu } }

/-- CONFIG in UNCONFIGURED: stored, and validated when the last section arrives (R178, R179); BUSY otherwise (R177). -/
def serveConfig (r : Request) (s : State) : State :=
  if s.blk.phase ≠ .unconfigured then s.reply r .busy []
  else
    match Settings.store s.held r.payload with
    | none => s.reply r .badArg []
    | some held =>
      let s := { s with held := held }.markSection (byteAt r.payload 1) true
      if s.received.toList.all id then
        match Settings.firstFailure held with
        | some n => (s.markSection n false).reply r .badConfig [BitVec.ofNat 8 n]
        | none => (s.adopt held).reply r .done []
      else s.reply r .done []

/-! ### The plan (R18, R19, R24, R25) -/

/-- A station position in range (R3). -/
def stagePosition (z : Int) : Bool :=
  withinInt (-500000) 500000 z

/-- The tools at two positions, when they may serve a point (R3, R18). -/
def toolsServe (cfg : Settings) (indenter objective : TurretPos) : Bool :=
  (cfg.tools[indenter].kind == .vickers || cfg.tools[indenter].kind == .knoop) && cfg.tools[objective].kind == .objective

/-- The position with the offset of either tool lies inside the stage limits (R18, R24). -/
def toolsInside (cfg : Settings) (indenter objective : TurretPos) (x y : Int) : Bool :=
  insideX cfg.stage (x + cfg.tools[indenter].offX) && insideX cfg.stage (x + cfg.tools[objective].offX)
    && insideY cfg.stage (y + cfg.tools[indenter].offY) && insideY cfg.stage (y + cfg.tools[objective].offY)

/-- A turret position named by a byte. -/
def turretPos (n : Nat) : Option TurretPos :=
  if h : n < 6 then some ⟨n, h⟩ else none

/-- The two limits ADDPT gives: an absent one's value is not looked at (R169). -/
def AddptArgs.limits (a : AddptArgs) : Option Nat × Option Nat :=
  (if a.presence.testBit 0 then some a.low else none, if a.presence.testBit 1 then some a.high else none)

/-- The low limit does not exceed the high limit, when both are present (R18). -/
def limitsAgree (l : Option Nat × Option Nat) : Bool :=
  match l with
  | (some low, some high) => decide (low ≤ high)
  | (none, some _) | (some _, none) | (none, none) => true

/-- The plan part ADDPT describes; none when the fourth check of R18 fails. -/
def AddptArgs.plan (a : AddptArgs) (cfg : Settings) : Option Plan :=
  match turretPos a.indenter, turretPos a.objective with
  | some ind, some obj =>
    if decide (1 ≤ a.seq) && decide (1 ≤ a.group) && stagePosition a.x && stagePosition a.y && within 50 20000 a.force
        && within 20 990 a.dwell && toolsServe cfg ind obj && limitsAgree a.limits && toolsInside cfg ind obj a.x a.y then
      some { seq := a.seq, group := a.group, x := a.x, y := a.y, indenter := ind, objective := obj, force := a.force
             dwell := a.dwell, edge := if a.edge = 0 then .outer else .widest, low := a.limits.1, high := a.limits.2
             origin := none }
    else none
  | _, _ => none

/-- The progress part of a new record (R4). -/
def Progress.initial : Progress :=
  { state := .waiting, reason := none, recaptures := 0, rowRecaptures := 0, windowTop := 32, shiftX := 0, shiftY := 0 }

/-- A new record (R4, R5). -/
def Point.ofPlan (p : Plan) : Point :=
  { plan := p, progress := Progress.initial, indent := none, result := none }

/-- ADDPT taken (R18). -/
def Rsq.addPoint (r : Rsq) (p : Plan) : Rsq :=
  { r with
    points := r.points ++ [Point.ofPlan p], orderList := r.orderList ++ [p.seq]
    run := if r.run = .empty then .loaded else r.run }

/-- The answer of ADDPT, and the plan part when it is taken: the checks of R18 in order, after R169's on listed bytes. -/
def addptCheck (cfg : Settings) (r : Rsq) (a : AddptArgs) : AnswerCode ⊕ Plan :=
  if 1 < a.edge ∨ 3 < a.presence then .inl .badArg
  else if r.run = .stopping then .inl .busy
  else if 96 ≤ r.points.length then .inl .full
  else if (r.find a.seq).isSome then .inl .duplicate
  else
    match a.plan cfg with
    | none => .inl .badArg
    | some p => .inr p

/-- ADDPT (R18). -/
def serveAddpt (r : Request) (s : State) : State :=
  match addptCheck s.site.cfg s.blk.rsq (AddptArgs.ofPayload r.payload) with
  | .inl a => s.reply r a []
  | .inr p => (s.withBlk (s.blk.withRsq (s.blk.rsq.addPoint p))).reply r .done []

/-- A record leaves the table and its entry the Order List (R19), with the run state that follows (R12). -/
def Rsq.dropPoint (r : Rsq) (q : Seq) : Rsq :=
  let r := { r with
    points := r.points.filter fun p => p.plan.seq != q
    orderList := r.orderList.filter fun m => m != q }
  if r.points.isEmpty then { r with run := .empty }
  else if r.run = .halted ∧ r.hasWork = false then { r with run := .finished }
  else r

/-- The answer of DROPPT (R19). -/
def dropptCheck (r : Rsq) (q : Seq) : AnswerCode :=
  match r.stateOf q with
  | none => .unknown
  | some st => if r.groupList.contains q || r.inSlot q || !st.open_ then .busy else .done

/-- DROPPT (R19). -/
def serveDroppt (r : Request) (s : State) : State :=
  let q := nat16At r.payload 1
  match dropptCheck s.blk.rsq q with
  | .done => (s.withBlk (s.blk.withRsq (s.blk.rsq.dropPoint q))).reply r .done []
  | a => s.reply r a []

/-- The plan part of a retest (R24). -/
def Plan.retest (p : Plan) (a : RetestArgs) : Plan :=
  { p with seq := a.seq, group := 0, x := p.x + a.dx, y := p.y + a.dy, origin := some p.seq }

/-- The ranges of R24's sixth check. -/
def RetestArgs.inRange (a : RetestArgs) (cfg : Settings) (p : Plan) : Bool :=
  decide (1 ≤ a.seq) && withinInt (-10000) 10000 a.dx && withinInt (-10000) 10000 a.dy && stagePosition (p.x + a.dx)
    && stagePosition (p.y + a.dy) && toolsInside cfg p.indenter p.objective (p.x + a.dx) (p.y + a.dy)

/-- The answer of RETEST, and the plan part when it is taken: the checks of R24 in order. -/
def retestCheck (cfg : Settings) (r : Rsq) (a : RetestArgs) : AnswerCode ⊕ Plan :=
  if r.run = .stopping then .inl .busy
  else
    match r.find a.original with
    | none => .inl .unknown
    | some p =>
      if !p.progress.state.terminal then .inl .busy
      else if 96 ≤ r.points.length then .inl .full
      else if (r.find a.seq).isSome then .inl .duplicate
      else if !a.inRange cfg p.plan then .inl .badArg
      else .inr (p.plan.retest a)

/-- RETEST taken: the record enters, its seq goes to the head of the Order List (R24). -/
def Rsq.addRetest (r : Rsq) (p : Plan) : Rsq :=
  { r with points := r.points ++ [Point.ofPlan p], orderList := p.seq :: r.orderList }

/-- RETEST (R24). -/
def serveRetest (r : Request) (s : State) : State :=
  match retestCheck s.site.cfg s.blk.rsq (RetestArgs.ofPayload r.payload) with
  | .inl a => s.reply r a []
  | .inr p => (s.withBlk (s.blk.withRsq (s.blk.rsq.addRetest p))).reply r .done []

/-- The run is RUNNING or STOPPING. -/
def RunState.active (r : RunState) : Bool :=
  match r with
  | .running | .stopping => true
  | .empty | .loaded | .halted | .finished => false

/-- CLEARPLAN (R25). -/
def serveClearplan (r : Request) (s : State) : State :=
  if s.blk.rsq.run.active then s.reply r .busy []
  else
    let rsq := { s.blk.rsq with points := [], orderList := [], resultQueue := [], run := .empty }
    (s.withBlk { s.blk with rsq := rsq, lki := s.blk.lki.detachResult }).reply r .done []

/-! ### The run (R21, R22) -/

/-- RUN answered NOTHING (R21): a run in HALTED becomes FINISHED. -/
def RunState.afterNothing (r : RunState) : RunState :=
  match r with
  | .halted => .finished
  | .empty | .loaded | .running | .stopping | .finished => r

/-- RUN taken: RUNNING, the owner set, a group formed (R21). -/
def startRun (e : Site) (owner : Station) (b : Blocks) : Blocks :=
  finish e (formGroup e (b.withRsq { b.rsq with run := .running, owner := some owner }))

/-- RUN (R21). -/
def serveRun (r : Request) (s : State) : State :=
  if s.blk.phase = .parked ∨ s.blk.rsq.run.active = true then s.reply r .busy []
  else if s.blk.rsq.hasWork then (s.withBlk (startRun s.site r.sender s.blk)).reply r .done []
  else
    (s.withBlk (s.blk.withRsq { s.blk.rsq with run := s.blk.rsq.run.afterNothing })).reply r .nothing []

/-- HALT taken in RUNNING: STOPPING, and under IMMEDIATE the drain (R22, R40). -/
def haltRun (e : Site) (immediate : Bool) (b : Blocks) : Blocks :=
  let b := b.withRsq { b.rsq with run := .stopping }
  if immediate then finish e (startDrain e b) else b

/-- HALT (R22), after R169's check of the mode. -/
def serveHalt (r : Request) (s : State) : State :=
  if 1 < byteAt r.payload 1 then s.reply r .badArg []
  else
    match s.blk.rsq.run with
    | .running => (s.withBlk (haltRun s.site (byteAt r.payload 1 == 1) s.blk)).reply r .done []
    | .stopping => s.reply r .busy []
    | .empty | .loaded | .halted | .finished => s.reply r .done []

/-! ### Reading back (R126, R127, R170, R171, R174) -/

/-- READPT (R170). -/
def serveReadpt (r : Request) (s : State) : State :=
  if 1 < byteAt r.payload 3 then s.reply r .badArg []
  else
    match s.blk.rsq.find (nat16At r.payload 1) with
    | none => s.reply r .unknown []
    | some p => s.reply r .done (if byteAt r.payload 3 = 0 then p.planView else p.resultView)

/-- The range check of READROWS (R126), after R169's of the hold byte. -/
def ReadrowsArgs.inRange (a : ReadrowsArgs) : Bool :=
  decide (a.hold ≤ 1) && (a.row == ReadrowsArgs.cursorRow || (decide (a.row ≤ 255) && decide (a.col ≤ 255)))
    && within 1 32 a.count

/-- The answer of READROWS, and the bank read when it is taken (R126). -/
def readrowsCheck (r : Riu) (a : ReadrowsArgs) : AnswerCode ⊕ BankId :=
  if !a.inRange then .inl .badArg
  else
    match r.bankOf a.seq with
    | none => .inl .noFrame
    | some k => if r.readout.isSome then .inl .busy else .inr k

/-- The hold option applied to a bank (R127). -/
def Riu.applyHold (r : Riu) (now : Stamp) (limit : Nat) (k : BankId) (hold : Bool) : Riu :=
  if hold then
    r.setTag k { r.tags[k] with hold := true, expiry := now + BitVec.ofNat 32 (limit * Config.ticksPerS) }
  else r.setTag k { r.tags[k] with hold := false }

/-- The start position of a readout (R126). -/
def Riu.startAt (r : Riu) (a : ReadrowsArgs) : Nat × Nat :=
  if a.row = ReadrowsArgs.cursorRow then (r.curRow, r.curCol) else (a.row, a.col)

/-- READROWS taken (R126): hold, start position, the readout waits for the port; a release may serve a waiting capture. -/
def startReadout (e : Site) (sender : Station) (a : ReadrowsArgs) (k : BankId) (b : Blocks) : Blocks :=
  let start := b.riu.startAt a
  let riu := b.riu.applyHold e.now e.cfg.image.holdS k (a.hold == 1)
  let readout : Readout :=
    { sender := sender, seq := a.seq, bank := k, row := start.1, col := start.2, count := a.count }
  finish e (seekWaiting e { b with riu := { riu with readout := some readout }, lki := b.lki.reserve })

/-- READROWS (R126). -/
def serveReadrows (r : Request) (s : State) : State :=
  let a := ReadrowsArgs.ofPayload r.payload
  match readrowsCheck s.blk.riu a with
  | .inl c => s.reply r c []
  | .inr k => s.withBlk (startReadout s.site r.sender a k s.blk)

/-- READSTAT (R171); the peak fill then becomes the present fill (R113). -/
def serveReadstat (r : Request) (s : State) : State :=
  let s' := s.reply r .done (statData s.blk)
  s'.withBlk (s'.blk.withRiu { s'.blk.riu with peakFill := s'.blk.riu.rows.length })

/-- READPEERS (R170). -/
def serveReadpeers (r : Request) (s : State) : State :=
  if 2 < byteAt r.payload 1 then s.reply r .badArg []
  else s.reply r .done (s.blk.bcu.peersData (byteAt r.payload 1))

/-- READCOUNT (R174): with take 1 the snapshots are taken first. -/
def serveReadcount (r : Request) (s : State) : State :=
  if 1 < byteAt r.payload 1 then s.reply r .badArg []
  else
    let rpu := if byteAt r.payload 1 = 1 then s.blk.rpu.takeCounts else s.blk.rpu
    (s.withBlk (s.blk.withRpu rpu)).reply r .done rpu.snapshotData

/-- CLEARNOTE (R172). -/
def serveClearnote (r : Request) (s : State) : State :=
  (s.withBlk (s.blk.withRpu (s.blk.rpu.clearFlags r.payload.tail))).reply r .done []

/-! ### Parking and resetting (R180, R181) -/

/-- PARK (R180). -/
def servePark (r : Request) (s : State) : State :=
  if s.blk.phase = .ready ∧ s.blk.rsq.run.active = false then
    (s.withBlk { s.blk with phase := .parked }).reply r .done []
  else s.reply r .busy []

/-- UNPARK (R180): the warm-up starts (R128). -/
def serveUnpark (r : Request) (s : State) : State :=
  if s.blk.phase = .parked then
    (s.withBlk { s.blk with phase := .ready, riu := { s.blk.riu with warmup := some s.site.now } }).reply r .done []
  else s.reply r .busy []

/-- RESETSTN taken: RESETTING, the place reserved, and the drain of R26 and R46, or the clearing at once. -/
def startReset (e : Site) (sender : Station) (b : Blocks) : Blocks :=
  let b := { b with phase := .resetting, resetSender := some sender, lki := b.lki.reserve }
  if b.rsq.run.active then finish e (if b.rsq.draining then abandonMeasurement b else startDrain e b)
  else finish e (clearStation b)

/-- RESETSTN (R181). -/
def serveResetstn (r : Request) (s : State) : State :=
  if s.blk.phase = .ready then s.withBlk (startReset s.site r.sender s.blk) else s.reply r .busy []

/-! ### The meanings -/

/-- CONFIG. -/
def execConfig (s : State) : Result := .next (takeRequest .config serveConfig s)
/-- ADDPT. -/
def execAddpt (s : State) : Result := .next (takeRequest .addpt serveAddpt s)
/-- DROPPT. -/
def execDroppt (s : State) : Result := .next (takeRequest .droppt serveDroppt s)
/-- RUN. -/
def execRun (s : State) : Result := .next (takeRequest .run serveRun s)
/-- HALT. -/
def execHalt (s : State) : Result := .next (takeRequest .halt serveHalt s)
/-- RETEST. -/
def execRetest (s : State) : Result := .next (takeRequest .retest serveRetest s)
/-- CLEARPLAN. -/
def execClearplan (s : State) : Result := .next (takeRequest .clearplan serveClearplan s)
/-- READPT. -/
def execReadpt (s : State) : Result := .next (takeRequest .readpt serveReadpt s)
/-- READROWS. -/
def execReadrows (s : State) : Result := .next (takeRequest .readrows serveReadrows s)
/-- READSTAT. -/
def execReadstat (s : State) : Result := .next (takeRequest .readstat serveReadstat s)
/-- READPEERS. -/
def execReadpeers (s : State) : Result := .next (takeRequest .readpeers serveReadpeers s)
/-- READCOUNT. -/
def execReadcount (s : State) : Result := .next (takeRequest .readcount serveReadcount s)
/-- CLEARNOTE. -/
def execClearnote (s : State) : Result := .next (takeRequest .clearnote serveClearnote s)
/-- PARK. -/
def execPark (s : State) : Result := .next (takeRequest .park servePark s)
/-- UNPARK. -/
def execUnpark (s : State) : Result := .next (takeRequest .unpark serveUnpark s)
/-- RESETSTN. -/
def execResetstn (s : State) : Result := .next (takeRequest .resetstn serveResetstn s)

/-- BADCODE_REQUEST: an empty payload, or a byte 0 that is no request code (R168). -/
def execBadcodeRequest (s : State) : Result :=
  .next (match headRequest none s with
    | none => s
    | some r => s.dropRequest.reply r .badCode [])

end Sys2Proof.Machine
end

