-- ==== Sys2Proof/Machine/LinkEvents.lean ====
section
/-! DEFINITION. The meanings of the pin, the clock and the link: PIN_RESET, TIMEBASE_TICK, RECEIVE_FRAME, MEDIUM_FREE,
WIN_MEDIUM, LOSE_ARBITRATION, FRAME_ABANDONED, OWN_FRAME_PASSES (chapters 9 and 11). -/

namespace Sys2Proof.Machine

/-! ### Pin and clock (R177, R182) -/

/-- The machine after a pin reset: every block at its reset values, the straps read, the store cleared. The line levels
are the bench's, the pixels stay, the queue is the sender's (log 30). -/
def resetState (strap : Station) (s : State) : State :=
  { s with
    site := Site.reset strap, blk := Blocks.reset strap s.blk.bcu.quietIn s.blk.bcu.motionIn, held := Settings.cleared
    received := Vector.replicate 6 false }

/-- PIN_RESET (R177, R70, R89, R111, R129, R144, R167, R176). -/
def execPinReset (strap : Station) (s : State) : Result :=
  .next (resetState strap s)

/-- TIMEBASE_TICK (R182). -/
def execTimebaseTick (s : State) : Result :=
  .next { s with site := { s.site with now := s.site.now + 1 } }

/-! ### Receiving (R162 to R164) -/

/-- A frame that fails the checks of R162. -/
def discardFrame (e : Site) (b : Blocks) : Blocks :=
  raise e .crcError (count e .crcErrors b)

/-- A STATE frame is discarded while the Receive Buffer holds 4 (R164). -/
def receiveState (e : Site) (f : Frame) (b : Blocks) : Blocks :=
  if b.lki.recv.length < 4 then
    match StateFrame.ofPayload f.payload with
    | some sf => takeStateFrame e f.sender sf b
    | none => b
  else raise e .rxDropped (count e .rxDropped b)

/-- A frame that passes the checks: clash first, then kind and address (R163). -/
def routeFrame (e : Site) (f : Frame) (b : Blocks) : Blocks :=
  if f.sender = e.station then numberClash e b
  else
    match f.kind with
    | .state => receiveState e f b
    | .ask => if f.dest = e.station then receiveAsk e { sender := f.sender, payload := f.payload } b else b
    | .ans | .result | .notice => b

/-- A frame from another station passes (R162, R167): none is taken before the medium has been seen free. -/
def receiveFrame (e : Site) (bits : List Bool) (b : Blocks) : Blocks :=
  if b.lki.synced then
    settleLines e (match Frame.parse bits with
      | none => discardFrame e b
      | some f => routeFrame e f b)
  else b

/-- RECEIVE_FRAME (R162). -/
def execReceiveFrame (bits : List Bool) (s : State) : Result :=
  .next (s.withBlk (receiveFrame s.site bits s.blk))

/-! ### Sending (R160, R161, R166) -/

/-- What the transmit arbiter offers first (R166, R175). -/
def chooseOffer (b : Blocks) : Option Offer :=
  if b.lki.slot.isSome then some .state
  else if !b.lki.placed.isEmpty then some .answer
  else if b.rpu.notice = .pending then some .notice
  else if !b.rsq.resultQueue.isEmpty && b.rsq.owner.isSome then some .result
  else none

/-- The medium is seen free (R160, R166, R167). A frame placed while it stands free is offered at the next such event (log 39). -/
def mediumFree (b : Blocks) : Blocks :=
  let tx := match b.lki.tx, chooseOffer b with
    | .idle, some o => .offering o
    | tx, _ => tx
  b.withLki { b.lki with synced := true, tx := tx }

/-- MEDIUM_FREE (R166). -/
def execMediumFree (s : State) : Result :=
  .next (s.withBlk (mediumFree s.blk))

/-- The frame an offer becomes as it wins the medium: the frame its place holds now; NOTICE and RESULT are built in this
event (R160, R173, R175, log 9). -/
def wonFrame (e : Site) (o : Offer) (b : Blocks) : Option OutFrame :=
  match o with
  | .state => b.lki.slot.map .state
  | .answer => b.lki.placed.head?.map .answer
  | .notice =>
    if b.rpu.notice = .pending then some (.notice e.cfg.bench.sink (noticePayload b)) else none
  | .result =>
    match b.rsq.resultQueue, b.rsq.owner with
    | q :: _, some owner => (b.rsq.find q).map fun p => .result q owner p.resultPayload true
    | [], _ => none
    | _ :: _, none => none

/-- What winning takes from its place: a STATE frame leaves the slot, a NOTICE becomes SENDING (R160). -/
def leavePlace (f : OutFrame) (b : Blocks) : Blocks :=
  match f with
  | .state _ => b.withLki { b.lki with slot := none }
  | .notice _ _ => b.withRpu b.rpu.noticeWins
  | .answer _ | .result _ _ _ _ => b

/-- The offered frame wins the medium (R160). -/
def winMedium (e : Site) (b : Blocks) : Blocks :=
  match b.lki.tx with
  | .idle | .sending _ => b
  | .offering o =>
    match wonFrame e o b with
    | none => b.withLki { b.lki with tx := .idle }
    | some f =>
      let b := leavePlace f b
      b.withLki { b.lki with tx := .sending f }

/-- WIN_MEDIUM (R160). -/
def execWinMedium (s : State) : Result :=
  .next (s.withBlk (winMedium s.site s.blk))

/-- Arbitration lost: the frame stays in its place (R160). -/
def loseArbitration (b : Blocks) : Blocks :=
  match b.lki.tx with
  | .idle | .sending _ => b
  | .offering _ => b.withLki { b.lki with tx := .idle }

/-- LOSE_ARBITRATION (R160). -/
def execLoseArbitration (s : State) : Result :=
  .next (s.withBlk (loseArbitration s.blk))

/-- An abandoned frame goes back to its place: a STATE frame to an empty slot unless BLOCKED, a NOTICE to PENDING (R161). -/
def returnFrame (f : OutFrame) (b : Blocks) : Blocks :=
  match f with
  | .state sf =>
    if b.lki.slot = none ∧ b.bcu.own ≠ .blocked then b.withLki { b.lki with slot := some sf } else b
  | .notice _ _ => b.withRpu b.rpu.noticeAbandoned
  | .answer _ | .result _ _ _ _ => b

/-- The own frame is abandoned (R161). -/
def abandonFrame (b : Blocks) : Blocks :=
  match b.lki.tx with
  | .idle | .offering _ => b
  | .sending f => returnFrame f (b.withLki { b.lki with tx := .idle })

/-- FRAME_ABANDONED (R161). -/
def execFrameAbandoned (s : State) : Result :=
  .next (s.withBlk (abandonFrame s.blk))

/-- The passage handed to its owner (R161). -/
def framePassed (e : Site) (f : OutFrame) (b : Blocks) : Blocks :=
  match f with
  | .state sf => settleLines e (takeEcho e sf b)
  | .answer _ => b.withLki { b.lki with placed := b.lki.placed.tail }
  | .notice _ _ => b.withRpu b.rpu.noticePasses
  | .result _ _ _ queued =>
    if queued then b.withRsq { b.rsq with resultQueue := b.rsq.resultQueue.tail } else b

/-- The own frame passes (R161). -/
def passFrame (e : Site) (b : Blocks) : Blocks :=
  match b.lki.tx with
  | .idle | .offering _ => b
  | .sending f => framePassed e f (b.withLki { b.lki with tx := .idle })

/-- OWN_FRAME_PASSES (R161). -/
def execOwnFramePasses (s : State) : Result :=
  .next (s.withBlk (passFrame s.site s.blk))

end Sys2Proof.Machine
end

