-- ==== Sys2Proof/Machine/BenchEvents.lean ====
section
/-! DEFINITION. The meanings of the bench: line levels, sense delays, settle, refresh, silence and stuck timers (chapter 3). -/

namespace Sys2Proof.Machine

/-- LINE_ASSERTS (R48). -/
def execLineAsserts (line : BenchLine) (s : State) : Result :=
  .next (s.withBlk (settleLines s.site (s.blk.withBcu (s.blk.bcu.setLine line true))))

/-- A sensed release (R48): a mover waiting for QUIET and a quiet claimant waiting for MOTION are tested (R52, R56); a
HOLDING station past its sense delay is granted (R57). -/
def lineFell (e : Site) (line : BenchLine) (b : Blocks) : Blocks :=
  match line, b.bcu.own with
  | .quiet, .waitMove => testEligible e b
  | .motion, .waitQuiet => testEligible e b
  | .motion, .holding => if b.bcu.sense = none then finish e (grantQuiet e b) else b
  | _, _ => b

/-- The level reported released; the line has released when the own driver does not hold it (R48, log 7). -/
def releaseLine (e : Site) (line : BenchLine) (b : Blocks) : Blocks :=
  let before := b.bcu.sensed line
  let b := b.withBcu (b.bcu.setLine line false)
  settleLines e (if before && !b.bcu.sensed line then lineFell e line b else b)

/-- LINE_RELEASES (R48). -/
def execLineReleases (line : BenchLine) (s : State) : Result :=
  .next (s.withBlk (releaseLine s.site line s.blk))

/-- The withdrawal of R54: MOTION released, WAITMOVE, counted, raised, announced. -/
def withdraw (e : Site) (b : Blocks) : Blocks :=
  enterOwn e .waitMove (raise e .withdrawn (count e .withdrawals b))

/-- The sense delay expires in CHECKING (R54). -/
def motionSense (e : Site) (b : Blocks) : Blocks :=
  if b.bcu.own = .checking ∧ Timer.due b.bcu.sense e.now Config.senseTicks = true then
    let b := b.withBcu { b.bcu with sense := none }
    if b.bcu.sensed .quiet then settleLines e (withdraw e b)
    else finish e (grantMotion e (b.withBcu { b.bcu with own := .moving }))
  else b

/-- MOTION_SENSE_EXPIRY (R54). -/
def execMotionSenseExpiry (s : State) : Result :=
  .next (s.withBlk (motionSense s.site s.blk))

/-- The sense delay expires in HOLDING (R57): granted, or held until MOTION releases. -/
def quietSense (e : Site) (b : Blocks) : Blocks :=
  if b.bcu.own = .holding ∧ Timer.due b.bcu.sense e.now Config.senseTicks = true then
    let b := b.withBcu { b.bcu with sense := none }
    if b.bcu.sensed .motion then b else finish e (grantQuiet e b)
  else b

/-- QUIET_SENSE_EXPIRY (R57). -/
def execQuietSenseExpiry (s : State) : Result :=
  .next (s.withBlk (quietSense s.site s.blk))

/-- The ADU is told that its claim has settled: a move that has ended is reported (R75). -/
def claimSettled (e : Site) (b : Blocks) : Blocks :=
  match b.adu.move with
  | none => b
  | some m => if (m.cond = .ended ∨ m.cond = .endedStopped) ∧ m.claimless = false then reportMove e b else b

/-- The settle timer expires (R55): MOTION is released and the claim leaves, the ADU is told and what its report brings the
pipeline follows, and only then the next claim becomes active. -/
def settleExpires (e : Site) (b : Blocks) : Blocks :=
  if b.bcu.own = .settling ∧ Timer.due b.bcu.settle e.now (e.cfg.bench.settleMs * Config.ticksPerMs) = true then
    conclude e (nextClaim e (collect e (advance e (claimSettled e (leaveClaim b)))))
  else b

/-- SETTLE_EXPIRY (R55). -/
def execSettleExpiry (s : State) : Result :=
  .next (s.withBlk (settleExpires s.site s.blk))

/-- The refresh timer expires (R62). -/
def refreshExpires (e : Site) (b : Blocks) : Blocks :=
  if Timer.due b.bcu.refresh e.now Config.refreshTicks then placeState e b else b

/-- REFRESH_EXPIRY (R62). -/
def execRefreshExpiry (s : State) : Result :=
  .next (s.withBlk (refreshExpires s.site s.blk))

/-- The silence limit of a peer expires (R63, R64). -/
def silenceExpires (e : Site) (peer : Station) (b : Blocks) : Blocks :=
  if silenceDue e peer b then
    let before := b.bcu.peerLost
    let b := count e .peersLost (b.withBcu (b.bcu.losePeer peer))
    settleLines e (testEligible e (conditionEdge e .peerLost before true b))
  else b

/-- SILENCE_EXPIRY (R63). -/
def execSilenceExpiry (peer : Station) (s : State) : Result :=
  .next (s.withBlk (silenceExpires s.site peer s.blk))

/-- A stuck timer expires (R65). -/
def stuckExpires (e : Site) (line : BenchLine) (b : Blocks) : Blocks :=
  if Timer.due (b.bcu.watch line).timer e.now (e.cfg.bench.stuckS * Config.ticksPerS) then lineBecomesStuck e line b
  else b

/-- STUCK_EXPIRY (R65). -/
def execStuckExpiry (line : BenchLine) (s : State) : Result :=
  .next (s.withBlk (stuckExpires s.site line s.blk))

end Sys2Proof.Machine
end

