-- ==== Sys2Proof/WellFormed.lean ====
section
/-! DEFINITION. Which commands are events the ports can deliver: a driver's stopped report gives a position inside its
axis's range (spec 00, Units and ranges). Every other operand is bounded by its type. The other stopped reports run as well:
the position they leave is a free value (log 23). -/

namespace Sys2Proof

/-- The range of a stopped report: stage positions and focus heights; the turret driver's is ignored (R88). -/
def Axis.inRange (axis : Axis) (position : Int) : Bool :=
  match axis with
  | .turret => true
  | .stageX | .stageY => decide (-500000 ≤ position) && decide (position ≤ 500000)
  | .focus => decide (0 ≤ position) && decide (position ≤ 20000)

/-- The commands the ports can deliver. -/
def Instr.wellFormed (i : Instr) : Bool :=
  match i with
  | .axisStopped axis position => axis.inRange position
  | .pinReset _ | .timebaseTick | .config | .addpt | .droppt | .run | .halt | .retest | .clearplan | .readpt | .readrows
  | .readstat | .readpeers | .readcount | .clearnote | .park | .unpark | .resetstn | .receiveFrame _ | .mediumFree
  | .winMedium | .loseArbitration | .frameAbandoned | .ownFramePasses | .lineAsserts _ | .lineReleases _
  | .motionSenseExpiry | .quietSenseExpiry | .settleExpiry | .refreshExpiry | .silenceExpiry _ | .stuckExpiry _
  | .moveFaultEndReport | .noMotionReport | .indexPulse _ | .gapTimerExpiry | .axisArrived _ | .axisHome _
  | .axisDriverFault _ | .axisTimerExpiry _ | .focusStepNoopDone | .loadSample _ | .lduStepTimerExpiry | .rampslowExpiry
  | .dwellExpiry | .loadSilenceExpiry | .frameStart | .rowArrival _ | .rowWriteComplete | .cameraTimerExpiry | .readoutComplete
  | .holdExpiry _ | .warmupExpiry | .gguCompletion | .badcodeRequest => true

end Sys2Proof
end

