-- ==== Sys2Proof/Machine/AxisEvents.lean ====
section
/-! DEFINITION. The meanings of the axes: separate move reports, index pulses, driver answers and faults, axis timers, the
step that needs no command (chapter 4). -/

namespace Sys2Proof.Machine

/-- The separate report of a move that put no claim, when its fault mark is as given (R74, R87). -/
def reportClaimless (e : Site) (faulted : Bool) (b : Blocks) : Blocks :=
  match b.adu.move with
  | none => b
  | some m => if m.claimless = true ∧ m.faultMark = faulted then finish e (reportMove e b) else b

/-- MOVE_FAULT_END_REPORT (R87). -/
def execMoveFaultEndReport (s : State) : Result :=
  .next (s.withBlk (reportClaimless s.site true s.blk))

/-- NO_MOTION_REPORT (R74). -/
def execNoMotionReport (s : State) : Result :=
  .next (s.withBlk (reportClaimless s.site false s.blk))

/-! ### The turret (R77 to R79, R88) -/

/-- The turret goes on INDEXING: the gap timer restarts; a homing that has found its mark is DRIVING. -/
def Adu.pulseOn (a : Adu) (now : Stamp) (counted : Option TurretPos) (d : Direction) (n : Nat) : Adu :=
  let a := { a with turret := .indexing counted d, gap := some now, homingCount := n }
  match a.move.bind (·.turret) with
  | some { target := _, progress := .homing } => if counted.isSome then a.setTurretProgress .driving else a
  | _ => a

/-- The turret arrives: drive withdrawn, gap timer stopped (R77). -/
def Adu.seat (a : Adu) (p : TurretPos) : Adu :=
  { a with turret := .at p, gap := none }.setTurretProgress .arrived

/-- An index pulse (R77, R78, R86, R88); its capture is stored in every case. -/
def indexPulse (e : Site) (mark : Bool) (b : Blocks) : Blocks :=
  let b := b.withAdu { b.adu with indexStamp := e.now, indexHome := mark }
  match b.adu.turret, b.adu.move.bind (·.turret) with
  | .indexing counted d, some g =>
    match pulseEffect (g.progress == .stopping) g.target counted d b.adu.homingCount mark with
    | .arrives p => finish e (endMoveIfDone e (b.withAdu (b.adu.seat p)))
    | .goesOn c d' n => b.withAdu (b.adu.pulseOn e.now c d' n)
    | .fault => finish e (faultTurret e b)
  | _, _ => finish e (faultTurret e b)

/-- INDEX_PULSE (R77). -/
def execIndexPulse (homeMark : Bool) (s : State) : Result :=
  .next (s.withBlk (indexPulse s.site homeMark s.blk))

/-- The gap timer expires (R79). -/
def gapExpires (e : Site) (b : Blocks) : Blocks :=
  if b.adu.turret.isIndexing = true ∧ Timer.due b.adu.gap e.now Config.gapTicks = true then finish e (faultTurret e b)
  else b

/-- GAP_TIMER_EXPIRY (R79). -/
def execGapTimerExpiry (s : State) : Result :=
  .next (s.withBlk (gapExpires s.site s.blk))

/-! ### Driver answers (R80, R81, R83, R84, R86, R88) -/

/-- An axis of the move has arrived at its target: DRIVING, or STOPPING from a drive when the answers crossed. -/
def Adu.arrives (a : Adu) (l : LinearAxis) : Bool :=
  match a.progressOf l with
  | some .driving => true
  | some .stopping => (a.axis l).known
  | some .homing | some .arrived | some .stopped | some .faulted | none => false

/-- The target of an axis in the move in hand. -/
def Adu.targetOf (a : Adu) (l : LinearAxis) : Int :=
  ((a.move.bind fun m => m.goal l).map (·.target)).getD 0

/-- An axis at its target. -/
def Adu.arriveAxis (a : Adu) (l : LinearAxis) : Adu :=
  (a.setAxis l ((a.axis l).settleAt (a.targetOf l))).setProgress l .arrived

/-- A focus step that waits for its driver. -/
def Adu.stepDriven (a : Adu) (l : LinearAxis) : Option Int :=
  match l, a.step with
  | .focus, some { target := t, noop := false } => some t
  | _, _ => none

/-- An arrived answer of a stage or focus driver. -/
def axisArrives (e : Site) (l : LinearAxis) (b : Blocks) : Blocks :=
  if b.adu.arrives l then
    finish e (endMoveIfDone e (b.withAdu ((b.adu.arriveAxis l).followRetract e.now)))
  else
    match b.adu.stepDriven l with
    | some t => finish e (stepDone e (b.withAdu { b.adu with f := b.adu.f.settleAt t }))
    | none => b

/-- AXIS_ARRIVED (R80): ignored from the turret's driver (R88). -/
def execAxisArrived (axis : Axis) (s : State) : Result :=
  .next (match linearAxis axis with
    | none => s
    | some l => s.withBlk (axisArrives s.site l s.blk))

/-- An axis that stops: the reported position counts when the axis is known (R80, R81). -/
def Adu.stopAt (a : Adu) (l : LinearAxis) (position : Int) : Adu :=
  let st := a.axis l
  (a.setAxis l (st.settleAt (if st.known then position else st.pos))).setProgress l .stopped

/-- A stopped answer of a stage or focus driver (R80, R81, R86). -/
def axisStops (e : Site) (l : LinearAxis) (position : Int) (b : Blocks) : Blocks :=
  if b.adu.progressOf l = some .stopping then finish e (endMoveIfDone e (b.withAdu (b.adu.stopAt l position))) else b

/-- AXIS_STOPPED (R80): ignored from the turret's driver (R88). A position outside the axis's range is taken as any other, and
what it leaves in the counter is a free value (log 23). -/
def execAxisStopped (axis : Axis) (position : Int) (s : State) : Result :=
  .next (match linearAxis axis with
    | none => s
    | some l =>
      if Axis.inRange axis position then s.withBlk (axisStops s.site l position s.blk)
      else { s with blk := axisStops s.site l (Config.openPosition s.free) s.blk, free := s.free + 1 })

/-- An axis that has found its reference: position 0, known (R81, R83). -/
def AxisState.homed (a : AxisState) : AxisState :=
  { a with pos := 0, known := true, timer := none }

/-- A home answer (R81, R83): the drive follows; one that crosses a stop leaves the axis STOPPED at 0 (log 12). -/
def axisHomes (e : Site) (l : LinearAxis) (b : Blocks) : Blocks :=
  match b.adu.progressOf l with
  | some .homing =>
    let a := (b.adu.setAxis l (b.adu.axis l).homed).startAxis e.now l
    finish e (endMoveIfDone e (b.withAdu (a.followRetract e.now)))
  | some .stopping =>
    if (b.adu.axis l).known then b
    else
      finish e (endMoveIfDone e (b.withAdu
        ((b.adu.setAxis l (b.adu.axis l).homed).setProgress l .stopped)))
  | some .driving | some .arrived | some .stopped | some .faulted | none => b

/-- AXIS_HOME (R81). -/
def execAxisHome (axis : Axis) (s : State) : Result :=
  .next (match linearAxis axis with
    | none => s
    | some l => s.withBlk (axisHomes s.site l s.blk))

/-! ### Faults and timers (R82 to R84, R88) -/

/-- A fault of a stage or focus axis: within the move, within a step, or outside both. -/
def axisFaults (e : Site) (l : LinearAxis) (b : Blocks) : Blocks :=
  if (b.adu.progressOf l).any AxisProgress.busy then finish e (faultAxis e l b)
  else if (b.adu.stepDriven l).isSome then finish e (failStep e b)
  else faultIdleAxis e l b

/-- AXIS_DRIVER_FAULT (R79, R82, R83, R88). -/
def execAxisDriverFault (axis : Axis) (s : State) : Result :=
  .next (s.withBlk (match linearAxis axis with
    | none => finish s.site (faultTurret s.site s.blk)
    | some l => axisFaults s.site l s.blk))

/-- AXIS_TIMER_EXPIRY (R82, R83). -/
def execAxisTimerExpiry (axis : LinearAxis) (s : State) : Result :=
  .next (if Timer.due (s.blk.adu.axis axis).timer s.site.now (axisLimit axis) then
    s.withBlk (axisFaults s.site axis s.blk)
  else s)

/-- The step to the present height is done in its own event (R84). -/
def noopStepDone (e : Site) (b : Blocks) : Blocks :=
  match b.adu.step with
  | some { target := _, noop := true } => finish e (stepDone e b)
  | some { target := _, noop := false } | none => b

/-- FOCUS_STEP_NOOP_DONE (R84). -/
def execFocusStepNoopDone (s : State) : Result :=
  .next (s.withBlk (noopStepDone s.site s.blk))

end Sys2Proof.Machine
end

