-- ==== Sys2Proof/Machine/LoadEvents.lean ====
section
/-! DEFINITION. The meanings of the load unit: samples, step timer, ramp, dwell and silence timers (chapter 5). -/

namespace Sys2Proof.Machine

/-! ### Force words (R91, R93, R97 to R103, R106, R107) -/

/-- The detector follows a force word when nothing else does; not in UNCONFIGURED (R93). -/
def watchContact (e : Site) (b : Blocks) : Blocks :=
  if b.phase = .unconfigured then b else b.withLdu (b.ldu.detect e.cfg.load)

/-- A force word in APPROACH (R91, R97). -/
def wordInApproach (e : Site) (sat : Bool) (force : Nat) (b : Blocks) : Blocks :=
  if sat then enterRetract e (failIndent e .forceSat b)
  else
    let l := b.ldu.detect e.cfg.load
    match contactChange b.ldu.touching l.touching with
    | .declared => b.withLdu (l.declare e.cfg.load e.now force)
    | .released | .none => b.withLdu l

/-- The ramp and band of LOADING, for a word that does not end the indent (R98, R100). -/
def Ldu.ramp (l : Ldu) (c : LoadSection) (now : Stamp) (force : Nat) : Ldu :=
  if insideBand c force l.word then l.enterDwell now
  else if l.word < risingTarget c l now force then l.notePeak.advance c
  else l.notePeak

/-- The regulation, the accounts and the excursion test of DWELL (R100, R101). -/
def wordInDwell (e : Site) (force : Nat) (b : Blocks) : Blocks :=
  let c := e.cfg.load
  let l := b.ldu.accumulate.regulate c force
  if insideBand c force l.word then b.withLdu { l with inBand := true }
  else if l.inBand then
    let b := count e .excursions (b.withLdu { l with inBand := false, excursions := min 255 (l.excursions + 1) })
    if c.excursionLimit < b.ldu.excursions then abortUnload e .unstable b else b
  else b.withLdu l

/-- A force word under load: saturation, overload, contact, then the phase's own tests, in that order (R91, R106, R107). -/
def wordUnderLoad (e : Site) (sat : Bool) (force : Nat) (b : Blocks) : Blocks :=
  if sat then abortUnload e .forceSat b
  else if (overloadLevel force : Int) < b.ldu.word then abortUnload e .overload (b.withLdu b.ldu.notePeak)
  else
    let l := b.ldu.detect e.cfg.load
    match contactChange b.ldu.touching l.touching with
    | .released => enterRetract e (failIndent e .contactLost (b.withLdu l))
    | .declared | .none =>
      if l.phase = .loading then b.withLdu (l.ramp e.cfg.load e.now force)
      else wordInDwell e force (b.withLdu l)

/-- A force word in UNLOADING (R103): one step away above the falling target; the release of contact or position 0 ends
it. -/
def wordInUnloading (e : Site) (b : Blocks) : Blocks :=
  let above := decide (fallingTarget e.cfg.load b.ldu e.now < b.ldu.word)
  let stepped := above && decide (0 < b.ldu.pos)
  let l := if above then b.ldu.retreat else b.ldu
  let l' := l.detect e.cfg.load
  let b := b.withLdu l'
  if (stepped && l'.pos == 0) || contactChange l.touching l'.touching == .released then enterRetract e b else b

/-- What the LDU does with a force word, by its phase. -/
def takeWord (e : Site) (sat : Bool) (b : Blocks) : Blocks :=
  let force := (b.ldu.order.map (·.force)).getD 0
  match b.ldu.phase with
  | .rest | .waitGrant | .retract => watchContact e b
  | .approach => wordInApproach e sat force b
  | .loading | .dwell => wordUnderLoad e sat force b
  | .unloading => wordInUnloading e b

/-- A load-cell sample (R90, R91). -/
def loadSample (e : Site) (sample : BitVec 24) (b : Blocks) : Blocks :=
  let l := b.ldu.takeSample e.now e.cfg.load.scaleFactor sample
  let sat := saturated (rawForce l.window l.tare e.cfg.load.scaleFactor)
  let b := b.withLdu l
  finish e (takeWord e sat (if sat then raise e .forceSat b else b))

/-- LOAD_SAMPLE (R90). -/
def execLoadSample (sample : BitVec 24) (s : State) : Result :=
  .next (s.withBlk (loadSample s.site sample s.blk))

/-! ### Timers (R97, R99, R102, R104, R108) -/

/-- The step timer expires in APPROACH (R97). -/
def approachStep (e : Site) (b : Blocks) : Blocks :=
  if b.ldu.pos < e.cfg.load.travelLimit then b.withLdu { b.ldu.advance e.cfg.load with step := some e.now }
  else enterRetract e (failIndent e .noContact b)

/-- The step timer expires in RETRACT (R104). -/
def retractStep (e : Site) (b : Blocks) : Blocks :=
  let l := { b.ldu.retreat with step := some e.now }
  if l.pos = 0 then endIndent e (b.withLdu l) else b.withLdu l

/-- The step timer expires (R97, R104). -/
def stepExpires (e : Site) (b : Blocks) : Blocks :=
  if Timer.due b.ldu.step e.now (stepInterval e.cfg.load) then
    match b.ldu.phase with
    | .approach => finish e (approachStep e b)
    | .retract => finish e (retractStep e b)
    | .rest | .waitGrant | .loading | .dwell | .unloading => b
  else b

/-- LDU_STEP_TIMER_EXPIRY (R97, R104). -/
def execLduStepTimerExpiry (s : State) : Result :=
  .next (s.withBlk (stepExpires s.site s.blk))

/-- The RAMPSLOW timer is due (R99). -/
def Ldu.rampSlowDue (l : Ldu) (now : Stamp) : Bool :=
  match l.rampSlow with
  | none => false
  | some t => Timer.due (some t.start) now t.limit

/-- RAMPSLOW_EXPIRY (R99). -/
def execRampslowExpiry (s : State) : Result :=
  .next (if s.blk.ldu.phase = .loading ∧ s.blk.ldu.rampSlowDue s.site.now = true then
    s.withBlk (abortUnload s.site .rampSlow s.blk)
  else s)

/-- The dwell timer is due (R100). -/
def Ldu.dwellDue (l : Ldu) (now : Stamp) : Bool :=
  Timer.due l.dwell now ((l.order.map (·.dwell)).getD 0 * 1000)

/-- DWELL_EXPIRY (R102). -/
def execDwellExpiry (s : State) : Result :=
  .next (if s.blk.ldu.phase = .dwell ∧ s.blk.ldu.dwellDue s.site.now = true then
    s.withBlk (s.blk.withLdu (s.blk.ldu.endDwell s.site.now))
  else s)

/-- The silence timer expires, by the phase (R108). -/
def cellSilent (e : Site) (b : Blocks) : Blocks :=
  let b := b.withLdu { b.ldu with silence := some e.now }
  match b.ldu.phase with
  | .rest => b
  | .waitGrant => endIndent e (failIndent e .cellSilent b)
  | .approach | .loading | .dwell => enterRetract e (failIndent e .cellSilent b)
  | .unloading => enterRetract e (if b.ldu.abort then b else raise e .loadFail b)
  | .retract =>
    let b := raise e .loadFail b
    if b.ldu.dwellDone then b else failIndent e .cellSilent b

/-- LOAD_SILENCE_EXPIRY (R108). -/
def execLoadSilenceExpiry (s : State) : Result :=
  .next (if Timer.due s.blk.ldu.silence s.site.now Config.cellTicks then
    s.withBlk (finish s.site (cellSilent s.site s.blk))
  else s)

end Sys2Proof.Machine
end

