-- ==== Sys2Proof/Machine/ImageEvents.lean ====
section
/-! DEFINITION. The meanings of the image path: camera frames and rows, the row writer, readouts, holds, the lamp's warm-up,
the GGU's completion (chapters 6 to 8). -/

namespace Sys2Proof.Machine

/-! ### Frames and rows (R112 to R114) -/

/-- The frame arriving is the taken one and still has window rows to come (R112). -/
def Capture.expectsRows (c : Capture) (rowCount : Option Nat) : Bool :=
  c.cond == .framing && c.arriving && decide (rowCount.getD 0 < c.windowTop + 256)

/-- A frame is taken: its stamp kept, the EGU begins it (R112, R120, R131). -/
def takeFrame (e : Site) (c : Capture) (b : Blocks) : Blocks :=
  { b with
    riu := { b.riu with capture := some { c with cond := .framing, stamp := e.now, arriving := true } }
    egu := match c.bank with
      | some k => b.egu.beginFrame k
      | none => b.egu }

/-- A frame start (R112, R120, R123). -/
def frameStart (e : Site) (b : Blocks) : Blocks :=
  let before := b.riu.rowCount
  let b := b.withRiu { b.riu with rowCount := some 0, camera := b.riu.camera.map fun _ => e.now }
  match b.riu.capture with
  | none => b
  | some c =>
    match c.cond with
    | .awaitFrame => takeFrame e c b
    | .framing =>
      if c.expectsRows before then finish e (loseRow e b)
      else b.withRiu { b.riu with capture := some { c with arriving := false } }
    | .waitLamp | .waitBank | .claiming | .stepping => b

/-- FRAME_START (R112). -/
def execFrameStart (s : State) : Result :=
  .next (s.withBlk (frameStart s.site s.blk))

/-- A camera row is a window row of the taken frame (R112). -/
def Capture.wants (c : Capture) (n : Nat) : Bool :=
  c.cond == .framing && c.arriving && decide (c.windowTop ≤ n) && decide (n < c.windowTop + 256)

/-- A window row joins the Row Queue (R113), or is dropped with the capture (R114). -/
def queueRow (e : Site) (n : Nat) (pixels : List Byte) (b : Blocks) : Blocks :=
  if b.riu.rows.length < 4 then
    let rows := b.riu.rows ++ [{ number := n, pixels := pixels }]
    finish e (b.withRiu { b.riu with rows := rows, peakFill := max b.riu.peakFill rows.length })
  else finish e (loseRow e (count e .rowsLost b))

/-- A row arrival: numbered, then queued or discarded (R112). -/
def rowArrives (e : Site) (pixels : List Byte) (b : Blocks) : Blocks :=
  match b.riu.rowCount with
  | none => b
  | some n =>
    if n < 320 then
      let b := b.withRiu { b.riu with rowCount := some (n + 1) }
      if b.riu.capture.any fun c => c.wants n then queueRow e n pixels b else b
    else b

/-- ROW_ARRIVAL (R113). -/
def execRowArrival (pixels : Vector Byte 256) (s : State) : Result :=
  .next (s.withBlk (rowArrives s.site pixels.toList s.blk))

/-! ### A row is written, a frame completes (R116, R117, R120 to R122) -/

/-- The focus height of the final frame: the best height of the search (R121, R142). -/
def searchedHeight (g : Egu) : Nat :=
  match g.search with
  | none => 0
  | some s => s.height.toNat

/-- The final frame ends the capture (R121): lamp, bank, release, outcome; Focus Memory on success (R85). -/
def endFinalFrame (e : Site) (c : Capture) (k : BankId) (b : Blocks) : Blocks :=
  let peak := b.egu.results[k].peak
  let level := b.riu.lamp
  let lamp := adjustedLamp e.cfg.image peak level
  let height := searchedHeight b.egu
  let b := b.withRiu { b.riu.fillBank k c.seq with lamp := lamp }
  if peak < e.cfg.image.lightLow then
    endCapture e (.failure .lowLight (lamp != level)) (raise e .lowLight b)
  else
    let b := b.withAdu { b.adu with memory := b.adu.memory.set c.objective (height : Int) }
    endCapture e (.success { bank := k, stamp := c.stamp, level := level, height := height }) b

/-- A search frame is scored (R141, R142): FOCUSPOOR ends the capture, the abandon mark abandons it, otherwise the next
frame is stepped to (R120, R124). -/
def endSearchFrame (e : Site) (c : Capture) (b : Blocks) : Blocks :=
  match b.egu.search with
  | none => b
  | some s =>
    let s := s.record b.egu.energy e.cfg.image.minEnergy
    let b := b.withEgu { b.egu with search := some s }
    match s.decision with
    | .focusPoor => endCapture e (.failure .focusPoor true) b
    | .undecided | .best _ => if c.abandon then endCapture e .abandoned b else stepToHeight e b

/-- The last window row has left the Row Queue: the frame is complete (R120, R139). -/
def completeFrame (e : Site) (c : Capture) (k : BankId) (b : Blocks) : Blocks :=
  let final := b.egu.kind == some .final
  let b := b.withEgu (b.egu.completeFrame e.cfg.tools[c.objective].revRow k)
  if final then endFinalFrame e c k b else endSearchFrame e c b

/-- The EGU takes the row written (R116, R131). -/
def sliceRow (e : Site) (c : Capture) (k : BankId) (row : QueuedRow) (b : Blocks) : Blocks :=
  let tool := e.cfg.tools[c.objective]
  b.withEgu (b.egu.takeRow e.cfg.image c.edge tool.revRow k (Fin.ofNat 256 (logicalRow tool.revRow (row.number - c.windowTop)))
    (logicalColumns tool.revCol row.pixels))

/-- The pixels of the banks after a row write (R116). -/
def writeRow (e : Site) (c : Capture) (k : BankId) (row : QueuedRow) (m : Memory) : Memory :=
  let tool := e.cfg.tools[c.objective]
  m.writeRun (pixelAddress k (logicalRow tool.revRow (row.number - c.windowTop)) 0) (logicalColumns tool.revCol row.pixels)

/-- The row write in progress: the capture, its bank and the row at the head of the Row Queue. -/
def Riu.rowInWrite (r : Riu) : Option (Capture × BankId × QueuedRow) :=
  match r.port, r.capture, r.rows with
  | .write true, some c, row :: _ => c.bank.map fun k => (c, k, row)
  | _, _, _ => none

/-- A row write completes (R113, R117): the row leaves the queue, sliced; the frame may be complete. -/
def rowWritten (e : Site) (c : Capture) (k : BankId) (row : QueuedRow) (b : Blocks) : Blocks :=
  let b := sliceRow e c k row (b.withRiu { b.riu with rows := b.riu.rows.tail, port := .free })
  finish e (if row.number = c.windowTop + 255 then completeFrame e c k b else b)

/-- A write whose capture has ended only frees the port (R117). -/
def staleWriteEnds (e : Site) (b : Blocks) : Blocks :=
  match b.riu.port with
  | .write _ => finish e (b.withRiu { b.riu with port := .free })
  | .free | .read => b

/-- ROW_WRITE_COMPLETE (R113). -/
def execRowWriteComplete (s : State) : Result :=
  .next (match s.blk.riu.rowInWrite with
    | some (c, k, row) => { s with blk := rowWritten s.site c k row s.blk, mem := writeRow s.site c k row s.mem }
    | none => s.withBlk (staleWriteEnds s.site s.blk))

/-! ### Camera timer, readout, hold, warm-up (R123, R126 to R128) -/

/-- A step in hand is dropped with its capture: the focus is unknown, nothing is reported (R84, R123). -/
def Adu.dropStep (a : Adu) : Adu :=
  match a.step with
  | none => a
  | some _ => { a with f := a.f.lose, step := none }

/-- The camera timer expires (R123). -/
def cameraExpires (e : Site) (b : Blocks) : Blocks :=
  if Timer.due b.riu.camera e.now Config.cameraTicks then
    let b := raise e .camSilent b
    finish e (endCapture e (.failure .camSilent false) (b.withAdu b.adu.dropStep))
  else b

/-- CAMERA_TIMER_EXPIRY (R123). -/
def execCameraTimerExpiry (s : State) : Result :=
  .next (s.withBlk (cameraExpires s.site s.blk))

/-- The data of a READROWS answer (R126). -/
def readoutData (m : Memory) (r : Readout) : List Byte :=
  be16 r.seq ++ be8 r.row ++ be8 r.col ++ be8 r.count ++ m.readPixels r.bank r.row r.col r.count

/-- A readout completes (R126): answer in its reserved place, cursor, port free, a waiting capture may choose. -/
def readoutEnds (e : Site) (m : Memory) (r : Readout) (b : Blocks) : Blocks :=
  let after := (r.row * 256 + r.col + r.count) % 65536
  let payload := BitVec.ofNat 8 ReqCode.readrows.toByte :: AnswerCode.done.code :: readoutData m r
  let riu := { b.riu with readout := none, port := .free, curRow := after / 256, curCol := after % 256 }
  finish e (seekWaiting e { b with riu := riu, lki := b.lki.answerReserved r.sender payload })

/-- READOUT_COMPLETE (R126). -/
def execReadoutComplete (s : State) : Result :=
  .next (match s.blk.riu.port, s.blk.riu.readout with
    | .read, some r => s.withBlk (readoutEnds s.site s.mem r s.blk)
    | _, _ => s)

/-- The hold of a bank has run out: the timebase has reached its expiry (R127, R182, log 5). -/
def Riu.holdDue (r : Riu) (now : Stamp) (limit : Nat) (k : BankId) : Bool :=
  let left := (r.tags[k].expiry - now).toNat
  r.tags[k].hold && !(decide (0 < left) && decide (left ≤ limit * Config.ticksPerS))

/-- A hold expires (R127). -/
def holdExpires (e : Site) (k : BankId) (b : Blocks) : Blocks :=
  if b.riu.holdDue e.now e.cfg.image.holdS k then
    finish e (seekWaiting e (raise e .holdExpired (b.withRiu (b.riu.setTag k { b.riu.tags[k] with hold := false }))))
  else b

/-- HOLD_EXPIRY (R127). -/
def execHoldExpiry (bank : BankId) (s : State) : Result :=
  .next (s.withBlk (holdExpires s.site bank s.blk))

/-- The warm-up ends (R128): a capture waiting for the lamp goes on to bank choice (R119). -/
def warmupEnds (e : Site) (b : Blocks) : Blocks :=
  if Timer.due b.riu.warmup e.now Config.warmupTicks then
    let b := b.withRiu { b.riu with warmup := none }
    finish e (if b.riu.capture.map (·.cond) = some .waitLamp then seekBank e b else b)
  else b

/-- WARMUP_EXPIRY (R128). -/
def execWarmupExpiry (s : State) : Result :=
  .next (s.withBlk (warmupEnds s.site s.blk))

/-! ### The GGU (R146) -/

/-- A measurement completes (R146): the record emptied, the outcome taken, the bank returned (R125). -/
def measurementEnds (e : Site) (m : Measurement) (b : Blocks) : Blocks :=
  let o := measure m b.egu.results[m.bank] b.rsq.points
  finish e (returnBank e m.bank (placeMeasurement e m.seq o { b with ggu := none }))

/-- GGU_COMPLETION (R146). -/
def execGguCompletion (s : State) : Result :=
  .next (match s.blk.ggu with
    | none => s
    | some m => s.withBlk (measurementEnds s.site m s.blk))

end Sys2Proof.Machine
end

