-- ==== Sys2Proof/Machine/Dispatch.lean ====
section
/-! DEFINITION. One arm per command: each calls the command's meaning. -/

namespace Sys2Proof.Machine

def exec (i : Instr) (s : State) : Host.Outcome State Fault Refusal :=
  match i with
  | .pinReset strap => Sys2Proof.Machine.execPinReset strap s
  | .timebaseTick => Sys2Proof.Machine.execTimebaseTick s
  | .config => Sys2Proof.Machine.execConfig s
  | .addpt => Sys2Proof.Machine.execAddpt s
  | .droppt => Sys2Proof.Machine.execDroppt s
  | .run => Sys2Proof.Machine.execRun s
  | .halt => Sys2Proof.Machine.execHalt s
  | .retest => Sys2Proof.Machine.execRetest s
  | .clearplan => Sys2Proof.Machine.execClearplan s
  | .readpt => Sys2Proof.Machine.execReadpt s
  | .readrows => Sys2Proof.Machine.execReadrows s
  | .readstat => Sys2Proof.Machine.execReadstat s
  | .readpeers => Sys2Proof.Machine.execReadpeers s
  | .readcount => Sys2Proof.Machine.execReadcount s
  | .clearnote => Sys2Proof.Machine.execClearnote s
  | .park => Sys2Proof.Machine.execPark s
  | .unpark => Sys2Proof.Machine.execUnpark s
  | .resetstn => Sys2Proof.Machine.execResetstn s
  | .receiveFrame bits => Sys2Proof.Machine.execReceiveFrame bits s
  | .mediumFree => Sys2Proof.Machine.execMediumFree s
  | .winMedium => Sys2Proof.Machine.execWinMedium s
  | .loseArbitration => Sys2Proof.Machine.execLoseArbitration s
  | .frameAbandoned => Sys2Proof.Machine.execFrameAbandoned s
  | .ownFramePasses => Sys2Proof.Machine.execOwnFramePasses s
  | .lineAsserts line => Sys2Proof.Machine.execLineAsserts line s
  | .lineReleases line => Sys2Proof.Machine.execLineReleases line s
  | .motionSenseExpiry => Sys2Proof.Machine.execMotionSenseExpiry s
  | .quietSenseExpiry => Sys2Proof.Machine.execQuietSenseExpiry s
  | .settleExpiry => Sys2Proof.Machine.execSettleExpiry s
  | .refreshExpiry => Sys2Proof.Machine.execRefreshExpiry s
  | .silenceExpiry peer => Sys2Proof.Machine.execSilenceExpiry peer s
  | .stuckExpiry line => Sys2Proof.Machine.execStuckExpiry line s
  | .moveFaultEndReport => Sys2Proof.Machine.execMoveFaultEndReport s
  | .noMotionReport => Sys2Proof.Machine.execNoMotionReport s
  | .indexPulse homeMark => Sys2Proof.Machine.execIndexPulse homeMark s
  | .gapTimerExpiry => Sys2Proof.Machine.execGapTimerExpiry s
  | .axisArrived axis => Sys2Proof.Machine.execAxisArrived axis s
  | .axisStopped axis position => Sys2Proof.Machine.execAxisStopped axis position s
  | .axisHome axis => Sys2Proof.Machine.execAxisHome axis s
  | .axisDriverFault axis => Sys2Proof.Machine.execAxisDriverFault axis s
  | .axisTimerExpiry axis => Sys2Proof.Machine.execAxisTimerExpiry axis s
  | .focusStepNoopDone => Sys2Proof.Machine.execFocusStepNoopDone s
  | .loadSample sample => Sys2Proof.Machine.execLoadSample sample s
  | .lduStepTimerExpiry => Sys2Proof.Machine.execLduStepTimerExpiry s
  | .rampslowExpiry => Sys2Proof.Machine.execRampslowExpiry s
  | .dwellExpiry => Sys2Proof.Machine.execDwellExpiry s
  | .loadSilenceExpiry => Sys2Proof.Machine.execLoadSilenceExpiry s
  | .frameStart => Sys2Proof.Machine.execFrameStart s
  | .rowArrival pixels => Sys2Proof.Machine.execRowArrival pixels s
  | .rowWriteComplete => Sys2Proof.Machine.execRowWriteComplete s
  | .cameraTimerExpiry => Sys2Proof.Machine.execCameraTimerExpiry s
  | .readoutComplete => Sys2Proof.Machine.execReadoutComplete s
  | .holdExpiry bank => Sys2Proof.Machine.execHoldExpiry bank s
  | .warmupExpiry => Sys2Proof.Machine.execWarmupExpiry s
  | .gguCompletion => Sys2Proof.Machine.execGguCompletion s
  | .badcodeRequest => Sys2Proof.Machine.execBadcodeRequest s

end Sys2Proof.Machine
end

