-- ==== Sys2Proof/Safety.lean ====
section
/-! DEFINITION. What the spec says always holds of the station's collections, ranges and pipeline, what an event may leave,
and the layouts and ranges of the spec's tables: the predicates of the statements. -/

namespace Sys2Proof.Machine

/-- How many places a readout or a RESETSTN in hand keeps reserved (R126, R165, R181). -/
def Blocks.owed (b : Blocks) : Nat :=
  b.riu.readout.isSome.toNat + b.resetSender.isSome.toNat

/-- The Receive Buffer holds at most 4 requests and the Answer Queue at most 6 places; each reservation belongs to a readout
or to the RESETSTN of a RESETTING station (R164, R165, R181). -/
def Blocks.LinkOk (b : Blocks) : Prop :=
  b.lki.recv.length ≤ 4 ∧ b.lki.placed.length + b.lki.reserved ≤ 6 ∧ b.lki.reserved = b.owed
    ∧ (b.resetSender.isSome = true ↔ b.phase = .resetting)

/-- The Row Queue holds at most 4 rows (R113), the lamp level stays within 0 to 63 (R128), the capture counter within 0 to
65,535 (R115), the cursor inside a bank (R126). -/
def Riu.Ok (r : Riu) : Prop :=
  r.rows.length ≤ 4 ∧ r.lamp ≤ 63 ∧ r.counter < 65536 ∧ r.curRow < 256 ∧ r.curCol < 256

/-- No running counter and no snapshot exceeds 65,535 (R174). -/
def Rpu.Ok (r : Rpu) : Prop :=
  (∀ i : Fin 10, r.counters[i] ≤ 65535) ∧ ∀ i : Fin 10, r.snapshots[i] ≤ 65535

/-- The force window holds 16 samples (R90), excursions stay within 0 to 255 (R101), the force word within its clamp (R91). -/
def Ldu.Ok (l : Ldu) : Prop :=
  l.window.length = 16 ∧ l.excursions ≤ 255 ∧ -32767 ≤ l.word ∧ l.word ≤ 32767

/-- The Claim Queue holds at most 2 claims, and none waits at its unit while it has room (R49). -/
def Bcu.ClaimsOk (c : Bcu) : Prop :=
  c.claims.length ≤ 2 ∧ (c.claims.length < 2 → c.waiting = [])

/-- The Bench Queue holds a station at most once, and only WAITMOVE or WAITQUIET entries (R60). -/
def Bcu.QueueOk (c : Bcu) : Prop :=
  c.benchQueue.Nodup ∧ ∀ s ∈ c.benchQueue, c.entryState s = .heard .waitMove ∨ c.entryState s = .heard .waitQuiet

/-- The plan parts of the Point Table, in table order (R3). -/
def Rsq.plans (r : Rsq) : List Plan :=
  r.points.map (·.plan)

/-- The Point Table holds at most 96 records, and no two share a seq (R2). -/
def Rsq.TableOk (r : Rsq) : Prop :=
  r.points.length ≤ 96 ∧ (r.points.map (·.plan.seq)).Nodup

/-- The stuck watch of a line agrees with the line: a stuck line is sensed asserted and its timer stands still; otherwise the
timer runs exactly while the line is suspect and the configuration complete (R65, R72). -/
def Bcu.WatchOk (c : Bcu) (timing : Bool) (l : BenchLine) : Prop :=
  ((c.watch l).stuck = true → c.sensed l = true ∧ (c.watch l).timer = none)
    ∧ ((c.watch l).stuck = false → ((c.watch l).timer.isSome = true ↔ (timing = true ∧ c.suspect l = true)))

/-- Both stuck watches agree with their lines. -/
def Blocks.LinesOk (b : Blocks) : Prop :=
  ∀ l, b.bcu.WatchOk (b.phase != .unconfigured) l

/-- A station never asserts both drivers (R47). -/
def Bcu.DriversOk (c : Bcu) : Prop :=
  ¬ (c.drives .quiet = true ∧ c.drives .motion = true)

/-- The command that takes a request of each code (R169). -/
def ReqCode.command (c : ReqCode) : Instr :=
  match c with
  | .config => .config
  | .addpt => .addpt
  | .droppt => .droppt
  | .run => .run
  | .halt => .halt
  | .retest => .retest
  | .clearplan => .clearplan
  | .readpt => .readpt
  | .readrows => .readrows
  | .readstat => .readstat
  | .readpeers => .readpeers
  | .readcount => .readcount
  | .clearnote => .clearnote
  | .park => .park
  | .unpark => .unpark
  | .resetstn => .resetstn

/-- The Request Decoder may take `r`: it stands at the head, before `rest`, and the Answer Queue has a free place (R164,
R165). -/
def State.mayTake (s : State) (r : Request) (rest : List Request) : Prop :=
  s.blk.lki.recv = r :: rest ∧ s.blk.lki.placed.length + s.blk.lki.reserved < 6

/-- `r` is a request of code `c` with the length R169 gives, and the station phase lets it reach its owner (R168). -/
def State.mayServe (s : State) (r : Request) (rest : List Request) (c : ReqCode) : Prop :=
  s.mayTake r rest ∧ r.code = some c ∧ r.lengthOk c = true ∧ s.blk.phase ≠ .resetting ∧ s.blk.phase ≠ .unconfigured

/-- The link after `r` has been taken and answered: out of the Receive Buffer, its answer at the tail of the placed answers,
addressed to its sender: the request code as received, the answer code, the data (R164, R165, R168). -/
def Lki.answered (l : Lki) (r : Request) (rest : List Request) (a : AnswerCode) (data : List Byte) : Lki :=
  { l with recv := rest, placed := l.placed ++ [{ dest := r.sender, payload := r.payload.getD 0 0 :: a.code :: data }] }

/-- The point in NOW is at work: its indent runs in the LDU, or its capture in the RIU (R27, R30, R33). -/
def Blocks.NowBusy (b : Blocks) : Prop :=
  (∃ q, b.rsq.now = some { seq := q, cond := .indenting } ∧ b.ldu.phase ≠ .rest)
    ∨ ∃ q, b.rsq.now = some { seq := q, cond := .capturing } ∧ b.riu.capture.isSome = true

/-- The pipeline waits: NOW is at work, or no group is in progress and nothing is drained. -/
def Blocks.Waits (b : Blocks) : Prop :=
  b.NowBusy ∨ (b.rsq.group = none ∧ b.rsq.draining = false)

/-- `b'` is `b` after all that an event still does while the pipeline waits: the port is granted to a user that waits (R117), and
NEXT may take the head of the Group List (R29, R32). -/
def Blocks.FlowsTo (b b' : Blocks) : Prop :=
  b' = { b with riu := b.riu.grantPort } ∨ b' = { b with riu := b.riu.grantPort, rsq := b.rsq.fillNext }

/-- Everything but the blocks is as it was: site, configuration store, pixels, queue, free values. -/
def State.sameOutside (s t : State) : Prop :=
  t.site = s.site ∧ t.held = s.held ∧ t.received = s.received ∧ t.mem = s.mem ∧ t.pending = s.pending ∧ t.free = s.free

/-- The report unit after a cause of the flag `n`: a flag already set changes nothing; one that becomes set is set, which in a disabled
group is all; in an enabled group the NOTICE becomes PENDING from NONE, stays PENDING, and takes the renewal mark while SENDING
(R172, R173). -/
def Rpu.raised (r : Rpu) (enables : Byte) (n : Notice) : Rpu :=
  let on := { r with flags := r.flags.set n.group (r.flags[n.group] ||| (1#8 <<< n.bit)) }
  if r.isSet n then r
  else if enables.getLsbD n.group = false then on
  else
    match r.notice with
    | .idle => { on with notice := .pending }
    | .pending => on
    | .sending => { on with renew := true }

/-- The report unit after a cause of the counter `c`: it rises by one; one that stands at 65,535 stays there and raises nothing;
one that rises to 65,535 raises COUNTFULL (R174). -/
def Rpu.counted (r : Rpu) (enables : Byte) (c : Counter) : Rpu :=
  let n := r.counters[c.index] + 1
  let up := { r with counters := r.counters.set c.index n }
  if 65535 < n then r else if n = 65535 then up.raised enables .countFull else up

/-- The report unit after the end of a condition: its flag's cause under BOTH, nothing under SET; bit 0 of the edge selections is
PEERLOST's, bit 1 LINESTUCK's (R64, R66, R172, R178). -/
def Rpu.conditionEnds (r : Rpu) (bench : BenchSection) (n : Notice) : Rpu :=
  if bench.edges.getLsbD (if n = .peerLost then 0 else 1) then r.raised bench.enables n else r

/-- The memory port's arbiter: a BUSY port stays as it is, and so does a FREE one that nobody waits for; the row writer is granted
alone or after a readout's turn, the readout alone or after the writer's; a grant makes the port BUSY and takes the turn (R117).
-/
def Riu.Arbitrates (r r' : Riu) : Prop :=
  (r.port ≠ .free ∨ (r.rows = [] ∧ r.readout = none) → r' = r)
    ∧ (r.port = .free → r.rows ≠ [] → r.readout = none ∨ r.lastTurn = .readout →
        r' = { r with port := .write true, lastTurn := .writer })
    ∧ (r.port = .free → r.readout ≠ none → r.rows = [] ∨ r.lastTurn = .writer →
        r' = { r with port := .read, lastTurn := .readout })

/-- A claim is put: it joins the Claim Queue, or waits at its unit while the queue holds 2; it becomes active at once when the station
is IDLE and the queue empty, and the station waits, or has found itself eligible (R49, R50, R52, R56). -/
def Bcu.TakesClaim (c c' : Bcu) (k : Claim) : Prop :=
  (c.claims.length < 2 → c'.claims = c.claims ++ [k] ∧ c'.waiting = c.waiting)
    ∧ (2 ≤ c.claims.length → c'.claims = c.claims ∧ c'.waiting = c.waiting ++ [k])
    ∧ (c.own = .idle → c.claims = [] →
        if k.claimant = .adu then c'.own = .waitMove ∨ c'.own = .starting else c'.own = .waitQuiet ∨ c'.own = .holding)
    ∧ (c.own ≠ .idle ∨ c.claims ≠ [] → c'.own = c.own)
    ∧ c'.peers = c.peers ∧ c'.benchQueue = c.benchQueue

/-- The choice of a bank for the capture `c` of `b`: a FREE bank, bank 0 first, else the older of the FILLED banks that neither a
hold nor a readout keeps; the bank chosen is TARGET, without owner and serial, and the capture claims QUIET; with none available
it waits in WAITBANK. All else is as `b` has it, but that the port is granted and NEXT may take the head of the Group List (R117
to R119). -/
def Blocks.SeeksBank (b b' : Blocks) (c : Capture) : Prop :=
  let tag := fun k : BankId => b.riu.tags[k]
  let free := fun k => (tag k).state = .free
  let kept := fun k => (tag k).hold = true ∨ b.riu.readout.map (·.bank) = some k
  let available := fun k => free k ∨ ((tag k).state = .filled ∧ ¬ kept k)
  let age := fun k => (b.riu.counter + 65536 - (tag k).serial.getD b.riu.counter) % 65536
  let chosen := fun k => (free k ∧ (k = 1 → ¬ free 0))
    ∨ (available k ∧ ∀ j, j ≠ k → ¬ free j ∧ (available j → age j < age k))
  (b'.rsq = b.rsq ∨ b'.rsq = b.rsq.fillNext) ∧ b'.adu = b.adu ∧ b'.ldu = b.ldu ∧ b'.egu = b.egu ∧ b'.ggu = b.ggu
    ∧ b'.rpu = b.rpu ∧ b'.phase = b.phase ∧ b'.lki = { b.lki with slot := b'.lki.slot }
    ∧ ((∀ k, ¬ available k) →
        b'.riu = Riu.grantPort { b.riu with capture := some { c with cond := .waitBank } }
          ∧ b'.bcu.claims = b.bcu.claims ∧ b'.bcu.waiting = b.bcu.waiting ∧ b'.bcu.own = b.bcu.own)
    ∧ ∀ k, chosen k →
        b'.riu = Riu.grantPort { b.riu with
            tags := b.riu.tags.set k { tag k with state := .target, owner := none, serial := none }
            capture := some { c with cond := .claiming, bank := some k } }
          ∧ b.bcu.TakesClaim b'.bcu { claimant := .riu, work := some c.seq }

/-- `b'` is `b` after all that an event still does that may have made a bank available: a capture in WAITBANK makes its choice again,
otherwise the pipeline waits (R118, R125 to R127). -/
def Blocks.Proceeds (b b' : Blocks) : Prop :=
  (b.riu.capture.map (·.cond) ≠ some .waitBank → b.FlowsTo b')
    ∧ ∀ c, b.riu.capture = some c → c.cond = .waitBank → b.SeeksBank b' c

/-- The state with another link, all else as it was. -/
def State.withLki (s : State) (l : Lki) : State :=
  { s with blk := { s.blk with lki := l } }

/-- The state after a request whose only effect is its answer. -/
def State.answers (s : State) (r : Request) (rest : List Request) (a : AnswerCode) (data : List Byte) : State :=
  s.withLki (s.blk.lki.answered r rest a data)

/-- The state after a request that changes the sequencer and is answered DONE. -/
def State.answersWith (s : State) (r : Request) (rest : List Request) (rsq : Rsq) : State :=
  { s with blk := { s.blk with lki := s.blk.lki.answered r rest .done [], rsq := rsq } }

/-- The force of a window before its clamp: the samples' sum less 16 tares, times the scale factor, over 2^24, rounded half up
(R90). -/
def forceOf (window : List Sample) (tare : Int) (scale : Nat) : Int :=
  (2 * (((window.map (·.toInt)).sum - 16 * tare) * scale) + 16777216) / 33554432

/-- The load unit with `sample` and its force word taken, before its phase acts on the word (R90, R91, R108). -/
def Ldu.sampled (l : Ldu) (now : Stamp) (scale : Nat) (sample : Sample) : Ldu :=
  { l with
    window := l.window.drop 1 ++ [sample]
    word := max (-32767) (min 32767 (forceOf (l.window.drop 1 ++ [sample]) l.tare scale))
    silence := l.silence.map fun _ => now }

/-- The indent part filled in the event at `now`: absent without contact (R102, R105). -/
def Ldu.partAt (l : Ldu) (now : Stamp) : Option IndentPart :=
  l.contact.map fun k =>
    { stamp := now, peak := l.peak, excursions := l.excursions, depth := (l.pos : Int) - k.pos
      mean := if l.count = 0 then 0 else (2 * l.sum.toInt + l.count.toNat) / (2 * l.count.toNat) }

/-- UNLOADING entered at `now`, from the force word last taken (R103). -/
def Ldu.unloadsAt (l : Ldu) (now : Stamp) (abort : Bool) : Ldu :=
  { l with
    phase := .unloading, abort := abort, rampStamp := now, rampForce := l.word, step := none, rampSlow := none
    dwell := none }

/-- RETRACT entered at `now` (R104). -/
def Ldu.retractsAt (l : Ldu) (now : Stamp) : Ldu :=
  { l with phase := .retract, step := some now, rampSlow := none, dwell := none }

/-- The end cause `r` taken at `now`, with its indent part (R105). -/
def Ldu.endsFor (l : Ldu) (now : Stamp) (r : Reason) : Ldu :=
  { l with cause := some r, part := l.partAt now }

/-- The fourth check of ADDPT passes for the tools `ind` and `obj` (R3, R18). -/
def AddptArgs.Acceptable (a : AddptArgs) (cfg : Settings) (ind obj : TurretPos) : Prop :=
  a.indenter = ind.val ∧ a.objective = obj.val ∧ 1 ≤ a.seq ∧ 1 ≤ a.group
    ∧ (-500000 ≤ a.x ∧ a.x ≤ 500000) ∧ (-500000 ≤ a.y ∧ a.y ≤ 500000)
    ∧ (50 ≤ a.force ∧ a.force ≤ 20000) ∧ (20 ≤ a.dwell ∧ a.dwell ≤ 990)
    ∧ (cfg.tools[ind].kind = .vickers ∨ cfg.tools[ind].kind = .knoop) ∧ cfg.tools[obj].kind = .objective
    ∧ (a.presence.testBit 0 = true → a.presence.testBit 1 = true → a.low ≤ a.high)
    ∧ ∀ p : TurretPos, p = ind ∨ p = obj →
        (cfg.stage.xMin ≤ a.x + cfg.tools[p].offX ∧ a.x + cfg.tools[p].offX ≤ cfg.stage.xMax)
          ∧ (cfg.stage.yMin ≤ a.y + cfg.tools[p].offY ∧ a.y + cfg.tools[p].offY ≤ cfg.stage.yMax)

/-- The record ADDPT enters (R3, R4, R5, R18). -/
def AddptArgs.record (a : AddptArgs) (ind obj : TurretPos) : Point :=
  { plan :=
      { seq := a.seq, group := a.group, x := a.x, y := a.y, indenter := ind, objective := obj, force := a.force
        dwell := a.dwell, edge := if a.edge = 0 then .outer else .widest
        low := if a.presence.testBit 0 then some a.low else none
        high := if a.presence.testBit 1 then some a.high else none, origin := none }
    progress :=
      { state := .waiting, reason := none, recaptures := 0, rowRecaptures := 0, windowTop := 32, shiftX := 0, shiftY := 0 }
    indent := none, result := none }

/-- The sixth check of RETEST passes for the original's plan part `p` (R24). -/
def RetestArgs.Acceptable (a : RetestArgs) (cfg : Settings) (p : Plan) : Prop :=
  1 ≤ a.seq ∧ (-10000 ≤ a.dx ∧ a.dx ≤ 10000) ∧ (-10000 ≤ a.dy ∧ a.dy ≤ 10000)
    ∧ (-500000 ≤ p.x + a.dx ∧ p.x + a.dx ≤ 500000) ∧ (-500000 ≤ p.y + a.dy ∧ p.y + a.dy ≤ 500000)
    ∧ ∀ k : TurretPos, k = p.indenter ∨ k = p.objective →
        (cfg.stage.xMin ≤ p.x + a.dx + cfg.tools[k].offX ∧ p.x + a.dx + cfg.tools[k].offX ≤ cfg.stage.xMax)
          ∧ (cfg.stage.yMin ≤ p.y + a.dy + cfg.tools[k].offY ∧ p.y + a.dy + cfg.tools[k].offY ≤ cfg.stage.yMax)

/-- The record RETEST enters (R4, R5, R24). -/
def RetestArgs.record (a : RetestArgs) (p : Plan) : Point :=
  { plan := { p with seq := a.seq, group := 0, x := p.x + a.dx, y := p.y + a.dy, origin := some p.seq }
    progress :=
      { state := .waiting, reason := none, recaptures := 0, rowRecaptures := 0, windowTop := 32, shiftX := 0, shiftY := 0 }
    indent := none, result := none }

/-- `q` is the one point the view phase still has before LAST: NOW is CAPTURING it, its capture `c` fills bank `k`, the stage
stands at it, no other point of the group waits and no move is in flight (R27, R33, R37). -/
def Blocks.ViewsAlone (b : Blocks) (q : Seq) (c : Capture) (k : BankId) (p : Point) : Prop :=
  b.rsq.group ≠ none ∧ b.rsq.phase = some .view ∧ b.rsq.next = none ∧ b.rsq.groupList = [] ∧ b.rsq.moveInFlight = none
    ∧ b.rsq.draining = false ∧ b.rsq.now = some { seq := q, cond := .capturing } ∧ b.rsq.find q = some p
    ∧ b.riu.capture = some c ∧ c.seq = q ∧ c.bank = some k ∧ b.riu.tags[k].state = .target ∧ b.rsq.stageAt = some q

/-- The quiet claim of `who` is granted and the only one, and no clash is pending (R49, R57). -/
def Bcu.HoldsQuiet (c : Bcu) (who : Claimant) : Prop :=
  c.own = .quiet ∧ c.claims.map (·.claimant) = [who] ∧ c.waiting = [] ∧ c.clash = false

/-- The records with those of `q` changed by `f`. -/
def Rsq.pointsWith (r : Rsq) (q : Seq) (f : Point → Point) : List Point :=
  r.points.map fun p => if p.plan.seq = q then f p else p

/-- The sequencer after the collection that ends a drain: WAITING and INDENTED members of the group at the head of the Order List in
group order, Group List and slots emptied, the run HALTED while work remains and FINISHED otherwise (R12, R20). -/
def Rsq.collected (r : Rsq) : Rsq :=
  { r with
    orderList := ((r.group.map (·.order)).getD []).filter (fun q =>
      r.stateOf q == some .waiting || r.stateOf q == some .indented) ++ r.orderList
    groupList := [], next := none, now := none, last := none, group := none, phase := none, draining := false
    run := if r.hasWork then .halted else .finished }

/-- `b'` after the collection of the drained sequencer `r`: the run stops with its notice, or the RESETSTN clearing follows (R12, R20,
R26). -/
def Blocks.Stops (b b' : Blocks) (r : Rsq) : Prop :=
  (b.phase ≠ .resetting → b'.rsq = r.collected ∧ b'.phase = b.phase
      ∧ b'.rpu.isSet (if r.hasWork then .runHalted else .runFinished) = true)
    ∧ (b.phase = .resetting → b'.rsq = Rsq.reset ∧ b'.phase = .ready
      ∧ b'.rpu.counters = Vector.replicate 10 0 ∧ b'.riu.curRow = 0 ∧ b'.riu.curCol = 0
      ∧ ∀ w, b.resetSender = some w → b'.lki.placed = b.lki.placed ++ [{ dest := w, payload := [16, 0] }])

/-- No operation but the move or the NOW operation is in flight (R20). -/
def Blocks.OnlyThis (b : Blocks) : Prop :=
  b.adu.move = none ∧ b.rsq.moveInFlight = none ∧ b.ggu = none

/-- The claims of the part are one claim of `who`, and no clash is pending. -/
def Bcu.ClaimsOf (c : Bcu) (who : Claimant) : Prop :=
  c.claims.map (·.claimant) = [who] ∧ c.waiting = [] ∧ c.clash = false

/-- The start of a drain with point `q` under the indenter (R41, R109). -/
def Blocks.DrainsIndent (b b' : Blocks) (e : Site) (q : Seq) : Prop :=
  let l := b.ldu
  let with_ := fun u : Ldu => { b with ldu := u, riu := b.riu.grantPort }
  b.OnlyThis →
    (l.phase = .loading ∨ l.phase = .dwell → l.cause = none →
        b' = with_ ((l.endsFor e.now .halted).unloadsAt e.now true))
      ∧ (l.phase = .approach → l.cause = none → 0 < l.pos → b' = with_ ((l.endsFor e.now .halted).retractsAt e.now))
      ∧ (l.phase = .unloading ∨ l.phase = .retract → b' = with_ l)
      ∧ (l.phase = .waitGrant → l.cause = none → (∃ o, l.order = some o ∧ o.seq = q) → b.riu.capture = none →
          b.bcu.ClaimsOf .ldu → b.bcu.own = .waitQuiet ∨ b.bcu.own = .holding →
            b'.bcu.own = .idle ∧ b'.bcu.claims = [] ∧ b'.ldu.phase = .rest ∧ b'.ldu.order = none ∧ b'.adu = b.adu
              ∧ b.Stops b' { b.rsq with
                  resultQueue := b.rsq.resultQueue ++ [q]
                  points := b.rsq.pointsWith q fun p => { p with
                    indent := l.partAt e.now
                    progress := { p.progress with state := .cancelled, reason := some .halted } } })

/-- The capture `c` of the point `q` in NOW is abandoned in a drain with no move and no indent in flight: the unit is emptied, its
TARGET bank FREE, QUIET released or its claim cancelled, and the point returns INDENTED, to the Group List while a measurement
goes on and with the collection otherwise (R20, R43, R124). -/
def Blocks.AbandonsCapture (b b' : Blocks) (q : Seq) (c : Capture) : Prop :=
  let points := b.rsq.pointsWith q fun p => { p with progress := { p.progress with state := .indented } }
  b'.bcu.own = .idle ∧ b'.bcu.claims = [] ∧ b'.riu.capture = none ∧ b'.riu.rows = [] ∧ b'.riu.camera = none
    ∧ b'.egu.search = none ∧ b'.adu = b.adu ∧ b'.ldu = b.ldu ∧ b'.riu.lamp = b.riu.lamp
    ∧ (∀ k, c.bank = some k → b.riu.tags[k].state = .target → b'.riu.tags[k].state = .free)
    ∧ (b.ggu = none → b.Stops b' { b.rsq with points := points })
    ∧ (b.ggu ≠ none → b.rsq.group ≠ none → q ∉ b.rsq.groupList → b.rsq.next.map (·.seq) ≠ some q →
        b.rsq.last.map (·.seq) ≠ some q →
          b'.ggu = b.ggu ∧ b'.phase = b.phase
            ∧ b'.rsq = { b.rsq with
                now := none, points := points
                groupList := ((b.rsq.group.map (·.order)).getD []).filter fun m => m = q ∨ m ∈ b.rsq.groupList })

/-- The start of a drain with the capture `c` of point `q` in progress (R43, R124). -/
def Blocks.DrainsCapture (b b' : Blocks) (q : Seq) (c : Capture) : Prop :=
  b.riu.capture = some c → c.seq = q → b.adu.move = none →
    (c.cond = .stepping ∨ c.cond = .framing → (b.phase = .resetting → b.ggu = none) →
        b' = { b with riu := Riu.grantPort { b.riu with capture := some { c with abandon := true } } })
      ∧ ((c.cond = .waitLamp ∨ c.cond = .waitBank) ∧ c.bank = none ∧ b.bcu.own = .idle ∧ b.bcu.claims = []
            ∧ b.bcu.waiting = []
          ∨ c.cond = .claiming ∧ b.bcu.ClaimsOf .riu ∧ (b.bcu.own = .waitQuiet ∨ b.bcu.own = .holding)
          ∨ c.cond = .awaitFrame ∧ b.bcu.ClaimsOf .riu ∧ b.bcu.own = .quiet →
        b.rsq.moveInFlight = none → (b.phase = .resetting → b.ggu = none) → b.ldu.phase = .rest →
          b.AbandonsCapture b' q c)

/-- The start of a drain with the move `m` in flight and NOW empty (R42, R86). -/
def Blocks.DrainsMove (b b' : Blocks) (e : Site) (m : Move) : Prop :=
  b.adu.move = some m → b.rsq.moveInFlight ≠ none → b.rsq.now = none → (b.phase = .resetting → b.ggu = none) →
    (m.faultMark = true → b' = { b with riu := b.riu.grantPort })
      ∧ (m.faultMark = false →
          (m.cond = .ended → b' = { b with
              riu := b.riu.grantPort
              adu := { b.adu with move := some { m with stopMark := true, cond := .endedStopped } } })
            ∧ (m.cond = .endedStopped → b' = { b with riu := b.riu.grantPort })
            ∧ (m.cond = .claiming → b.bcu.ClaimsOf .adu →
                b.bcu.own = .waitMove ∨ b.bcu.own = .starting ∨ b.bcu.own = .checking →
                b.ldu.phase = .rest → b.riu.capture = none → b.ggu = none →
                  b'.bcu.own = .idle ∧ b'.bcu.claims = [] ∧ b'.adu = { b.adu with move := none } ∧ b'.ldu = b.ldu
                    ∧ b.Stops b' { b.rsq with moveInFlight := none })
            ∧ (m.cond = .driving →
                b'.rsq = b.rsq ∧ b'.ldu = b.ldu ∧ b'.egu = b.egu ∧ b'.bcu.claims = b.bcu.claims
                  ∧ b'.adu.turret = b.adu.turret ∧ b'.adu.gap = b.adu.gap
                  ∧ ∃ k, b'.adu.move = some k ∧ k.stopMark = true ∧ k.faultMark = false ∧ k.kind = m.kind ∧ k.seq = m.seq
                      ∧ (∀ a, m.goal a = none → b'.adu.axis a = b.adu.axis a)
                      ∧ (∀ a g, m.goal a = some g →
                          let moves := g.progress = .homing ∨ g.progress = .driving
                          k.goal a = some { g with progress := if moves then .stopping else g.progress }
                            ∧ b'.adu.axis a = if moves then { b.adu.axis a with timer := some e.now, cmd := some .stop }
                                else b.adu.axis a)
                      ∧ k.turret = m.turret.map (fun g => { g with
                          progress := if g.progress = .homing ∨ g.progress = .driving then
                            if b.adu.turret.isIndexing then .stopping else .stopped else g.progress })
                      ∧ k.cond = (if k.allEnded then .endedStopped else .driving)
                      ∧ (k.allEnded = true → b.bcu.own = .moving →
                          b'.bcu.own = .settling ∧ b'.bcu.settle = some e.now)
                      ∧ (k.allEnded = false → b'.bcu.own = b.bcu.own)))

/-- The start of a drain: `b` has the drain on, `b'` is what the event leaves of it (R40 to R44, R46, R158). -/
def Blocks.Drains (b b' : Blocks) (e : Site) : Prop :=
  let returned (q : Seq) : Rsq := { b.rsq with
    groupList := ((b.rsq.group.map (·.order)).getD []).filter fun m => m = q ∨ m ∈ b.rsq.groupList
    points := b.rsq.pointsWith q fun p => { p with progress := { p.progress with state := .indented } } }
  let alone := fun (q : Seq) => b.rsq.group ≠ none ∧ q ∉ b.rsq.groupList ∧ b.rsq.next.map (·.seq) ≠ some q
  (∀ m, b.DrainsMove b' e m)
    ∧ (∀ q, b.rsq.now = some { seq := q, cond := .indenting } → b.DrainsIndent b' e q)
    ∧ (∀ q c, b.rsq.now = some { seq := q, cond := .capturing } → b.DrainsCapture b' q c)
    ∧ (∀ q v l, b.rsq.now = some { seq := q, cond := .captured v } → b.rsq.last = some l → l.seq ≠ q → alone q →
        b.adu.move = none → b.ggu ≠ none → b.phase ≠ .resetting →
          b' = { b with riu := b.riu.grantPort, rsq := { returned q with now := none } })
    ∧ ∀ q c l m, b.phase = .resetting → b.rsq.now = some { seq := q, cond := .capturing } → b.riu.capture = some c →
        c.cond = .stepping ∨ c.cond = .framing → b.adu.move = none → b.ggu = some m → b.rsq.last = some l →
        l.seq = m.seq → m.seq ≠ q → alone m.seq →
          b' = { b with
            ggu := none, rsq := { returned m.seq with last := none }
            riu := Riu.grantPort { b.riu with capture := some { c with abandon := true } } }

/-- The reports after a STATE frame of `p`: the end of PEERLOST when its entry was the last LOST one, else as they were (R59, R64,
R172). -/
def Blocks.ReportsHeard (b b' : Blocks) (e : Site) (p : Station) : Prop :=
  let last := b.bcu.peers[p].announced = .lost ∧ ∀ k : Station, k ≠ p → b.bcu.peers[k].announced ≠ .lost
  (last → b'.rpu = b.rpu.conditionEnds e.cfg.bench .peerLost) ∧ (¬ last → b'.rpu = b.rpu)

/-- `b'` is what the eligibility test leaves of `b`, made on the tables and levels of `b'`: an eligible WAITMOVE station is STARTING,
its MOVING frame placed; an eligible WAITQUIET station is HOLDING, its sense delay started, no frame placed; every other station
stays as it was (R52, R56, R59). -/
def Blocks.Tested (b b' : Blocks) (e : Site) : Prop :=
  let frame : StateFrame := { announced := .moving, run := b.rsq.run, work := b.bcu.claims.head?.bind (·.work) }
  let starts := b.bcu.own = .waitMove ∧ b'.bcu.motionEligible e.station e.cfg.bench.moveBudget = true
  let holds := b.bcu.own = .waitQuiet ∧ b'.bcu.quietEligible e.station = true
  b'.bcu.own = (if starts then .starting else if holds then .holding else b.bcu.own)
    ∧ b'.lki.slot = (if starts then some frame else b.lki.slot)
    ∧ b'.bcu.refresh = (if starts then some e.now else b.bcu.refresh)
    ∧ b'.bcu.sense = (if holds then some e.now else b.bcu.sense)

/-- The sequencer after the point in NOW has ended in `st` for `reason`: its record closed, NOW empty, a RESULT queued
(R6, R7, R11). -/
def Rsq.closesNow (r : Rsq) (q : Seq) (st : PointState) (reason : Reason) : Rsq :=
  { r with
    now := none, resultQueue := r.resultQueue ++ [q]
    points := r.pointsWith q fun p => { p with progress := { p.progress with state := st, reason := some reason } } }

/-- The image unit after its capture into bank `k` has ended without a frame: Row Queue, record and camera timer emptied, the
bank FREE, a row write in progress without effect, the port free for a readout (R113, R114, R117, R123). -/
def Riu.gaveUp (r : Riu) (k : BankId) : Riu :=
  Riu.grantPort { r with
    rows := [], capture := none, camera := none, port := if r.port = .write true then .write false else r.port
    tags := r.tags.set k { r.tags[k] with state := .free, owner := none, serial := none } }

/-- The image unit after a final frame of `q` has filled bank `k`: the bank under its seq and the next serial, the lamp at its
new level, the record emptied, the port free for a readout (R115, R121). -/
def Riu.filledBy (r : Riu) (k : BankId) (q : Seq) (lamp : Nat) (state : BankState) : Riu :=
  Riu.grantPort { r with
    rows := [], capture := none, camera := none, port := .free, lamp := lamp, counter := (r.counter + 1) % 65536
    tags := r.tags.set k
      { r.tags[k] with state := state, owner := some q, serial := some ((r.counter + 1) % 65536) } }

/-- The capture of the point `q` in NOW has failed for `reason`, recapturable, outside a drain, while LAST is held; `b` is what
the end of the capture leaves, the point still in NOW, QUIET released and the bank given back or FILLED. With its budget spent the
point fails. Otherwise it is counted and, the stage still standing there, captured again at once under a new capture record, which
seeks its bank (R33, R35, R37). -/
def Blocks.FailsCapture (b b' : Blocks) (e : Site) (q : Seq) (p : Point) (reason : Reason) : Prop :=
  let rows := reason = .rowLost
  let spent := if rows then 3 ≤ p.progress.rowRecaptures else 2 ≤ p.progress.recaptures
  let counted := fun c : Counter => b'.rpu.counters = (b.rpu.counted e.cfg.bench.enables c).counters
  (spent →
      b'.rsq = b.rsq.closesNow q .failed reason ∧ b'.riu = b.riu.grantPort ∧ b'.bcu.own = .idle ∧ b'.bcu.claims = []
        ∧ b'.adu = b.adu ∧ b'.egu = b.egu ∧ b'.ldu = b.ldu ∧ b'.ggu = b.ggu ∧ counted .pointsFailed)
    ∧ (¬ spent → b.riu.warmup = none →
        counted .recaptures
          ∧ ∃ c, c.seq = p.plan.seq ∧ c.objective = p.plan.objective ∧ c.windowTop = p.progress.windowTop
              ∧ c.edge = p.plan.edge ∧ c.search = (if b.rsq.focusFound then .short else .full) ∧ c.bank = none
              ∧ c.abandon = false
              ∧ Blocks.SeeksBank { b with
                  rpu := b'.rpu, riu := { b.riu with capture := some c }
                  rsq := { b.rsq with
                    points := b.rsq.pointsWith q fun p => { p with
                      progress := { p.progress with
                        state := .viewing
                        recaptures := if rows then p.progress.recaptures else p.progress.recaptures + 1
                        rowRecaptures := if rows then p.progress.rowRecaptures + 1 else p.progress.rowRecaptures } } }
                  } b' c)

/-- The entries a group takes from the head of the Order List, `p` being the head's record: in order, as long as they share group
number, tools and state with it, 8 at most (R14). -/
def Rsq.groupOf (r : Rsq) (p : Point) : List Seq :=
  (r.orderList.take 8).takeWhile fun m => (r.find m).any fun k =>
    decide (k.plan.group = p.plan.group ∧ k.plan.indenter = p.plan.indenter ∧ k.plan.objective = p.plan.objective
      ∧ k.progress.state = p.progress.state)

/-- The sequencer with the group formed that the Order List's head `p` leads: a WAITING group in the indent phase, an INDENTED one
in the view phase; focus-found is cleared (R14, R27). -/
def Rsq.formed (r : Rsq) (p : Point) : Rsq :=
  { r with
    orderList := r.orderList.drop (r.groupOf p).length, groupList := r.groupOf p, focusFound := false
    phase := some (if p.progress.state = .indented then .view else .indent)
    group := some { order := r.groupOf p, indenter := p.plan.indenter, objective := p.plan.objective } }

/-- A group boundary at which the Order List's head is `head` with the record `p`: the group is formed and its phase begins. With
the turret away from the position the phase needs, the phase move is ordered: focus to 0, then the index. With the turret there
the points flow at once: the head enters NEXT and travels, by its point move to its place under the indenter, or by its view move
to its place under the objective, moved by its shifts, with the focus at the Focus Memory height (R14, R28, R29, R32, R74). -/
def Blocks.StartsGroup (b b' : Blocks) (e : Site) (head : Seq) (p : Point) : Prop :=
  let viewed := p.progress.state = .indented
  let need := if viewed then p.plan.objective else p.plan.indenter
  let r := b.rsq.formed p
  let goal := fun z : Int => some { target := z, progress := AxisProgress.driving }
  let fresh : Move :=
    { kind := .phase, seq := none, turret := none, x := none, y := none, f := none, cond := .claiming, stopMark := false
      faultMark := false, claimless := false }
  (b.adu.turret ≠ .at need →
      b'.rsq = { r with moveInFlight := some .phaseMove, stageAt := none }
        ∧ b'.adu = { b.adu with move := some { fresh with
            turret := some { target := need, progress := .driving }, f := goal 0 } }
        ∧ b'.rpu.counters = b.rpu.counters ∧ b.bcu.TakesClaim b'.bcu { claimant := .adu, work := none })
    ∧ (b.adu.turret = .at need → b.rsq.next = none → b.rsq.now = none → b.rsq.last = none →
        let x := p.plan.x + e.cfg.tools[need].offX + if viewed then p.progress.shiftX else 0
        let y := p.plan.y + e.cfg.tools[need].offY + if viewed then p.progress.shiftY else 0
        let m := { fresh with
          kind := if viewed then .view else .point, seq := some head, x := goal x, y := goal y
          f := if viewed then goal (max 0 (min 20000 b.adu.memory[need])) else none }
        e.cfg.stage.xMin ≤ x → x ≤ e.cfg.stage.xMax → e.cfg.stage.yMin ≤ y → y ≤ e.cfg.stage.yMax →
        b.adu.noMotion m = false →
          b'.rsq = { r with
              groupList := (b.rsq.groupOf p).tail, next := some { seq := head, cond := .travelling }
              moveInFlight := some (.point head), stageAt := none }
            ∧ b'.adu = { b.adu with move := some m } ∧ b'.rpu.counters = b.rpu.counters
            ∧ b.bcu.TakesClaim b'.bcu { claimant := .adu, work := some head })

/-- The last point of the group has ended: GROUPDONE. In STOPPING, under HALT BOUNDARY, the run is HALTED while work remains and
FINISHED otherwise; in RUNNING the next group is formed, or with an empty Order List the run is FINISHED; each with its notice
(R12, R17). -/
def Blocks.FinishesGroup (b b' : Blocks) (e : Site) : Prop :=
  let r := { b.rsq with group := none, phase := none }
  b'.rpu.isSet .groupDone = true
    ∧ (r.run = .stopping →
        b'.rsq = { r with run := if r.hasWork then .halted else .finished } ∧ b'.adu = b.adu
          ∧ b'.rpu.counters = b.rpu.counters ∧ b'.rpu.isSet (if r.hasWork then .runHalted else .runFinished) = true)
    ∧ (r.run = .running → r.orderList = [] →
        b'.rsq = { r with run := .finished } ∧ b'.adu = b.adu ∧ b'.rpu.counters = b.rpu.counters
          ∧ b'.rpu.isSet .runFinished = true)
    ∧ ∀ head tail p, r.run = .running → r.orderList = head :: tail → r.find head = some p →
        p.progress.state = .waiting ∨ p.progress.state = .indented → Blocks.StartsGroup { b with rsq := r } b' e head p

/-- A row's pixels as values, in logical column order (R116). -/
def QueuedRow.values (row : QueuedRow) (revCol : Bool) : List Nat :=
  (if revCol then row.pixels.reverse else row.pixels).map (·.toNat)

/-- The largest of some values (R132). -/
def peakOf (values : List Nat) : Nat :=
  values.foldr max 0

/-- The threshold of a row whose peak history is `history`: `percent` of the largest of the newest `window` peaks, rounded half
up (R132, R133). -/
def rowThreshold (history : List Nat) (window percent : Nat) : Nat :=
  (2 * (peakOf (history.drop (history.length - window)) * percent) + 100) / 200

/-- A maximal run of dark pixels of a row, from column `a` to column `b` (R134). -/
def DarkRun (t : Nat) (values : List Nat) (a b : Nat) : Prop :=
  a ≤ b ∧ b < values.length ∧ (∀ i, a ≤ i → i ≤ b → values.getD i 0 < t) ∧ (0 < a → t ≤ values.getD (a - 1) 0)
    ∧ (b + 1 < values.length → t ≤ values.getD (b + 1) 0)

/-- What the end of a motion claim leaves when no clash is pending: the head of the Claim Queue is active, eligible or waiting, or the
station is IDLE; its STATE frame is placed, built after all else the event does (R50, R52, R55, R56, R62). -/
def Blocks.ServesHead (b : Blocks) (e : Site) : Prop :=
  b.bcu.own = (match b.bcu.claims with
      | [] => .idle
      | c :: _ =>
        if c.claimant = .adu then
          if b.bcu.motionEligible e.station e.cfg.bench.moveBudget then .starting else .waitMove
        else if b.bcu.quietEligible e.station then .holding else .waitQuiet)
    ∧ b.lki.slot = b.bcu.own.announced.map (fun a =>
        { announced := a, run := b.rsq.run, work := b.bcu.claims.head?.bind (·.work) })
    ∧ b.bcu.refresh = (if b.bcu.claims = [] then none else some e.now)
    ∧ b.bcu.sense = (if b.bcu.own = .holding then some e.now else none)

/-- The motion of the driven move `m`, after an event that leaves the move `k`: it ends when every axis is ARRIVED, STOPPED or
FAULTED, and a MOVING station then enters SETTLING (R55, R75, R86, R87). -/
def Blocks.MotionFollows (b b' : Blocks) (e : Site) (m k : Move) : Prop :=
  b'.adu.move = some k ∧ k.kind = m.kind ∧ k.seq = m.seq ∧ k.stopMark = m.stopMark ∧ k.claimless = m.claimless
    ∧ k.cond = (if k.allEnded then (if m.stopMark then .endedStopped else .ended) else .driving)
    ∧ (b.bcu.own = .moving →
        b'.bcu.own = (if k.allEnded then .settling else .moving) ∧ (k.allEnded = true → b'.bcu.settle = some e.now))

/-- Progress HOMING or DRIVING: a stop command goes to the axis (R86). -/
def AxisProgress.stoppable (p : AxisProgress) : Bool :=
  p == .homing || p == .driving

/-- The records after `q` has failed on an axis: AXISFAULT, out of whatever place held it, a RESULT queued (R45). -/
def Rsq.failsOnAxis (r : Rsq) (q : Seq) : Rsq :=
  { r with
    groupList := r.groupList.filter fun m => m != q
    next := if r.next.map (·.seq) = some q then none else r.next
    now := if r.now.map (·.seq) = some q then none else r.now
    last := if r.last.map (·.seq) = some q then none else r.last
    resultQueue := r.resultQueue ++ [q]
    points := r.pointsWith q fun p => { p with
      progress := { p.progress with state := .failed, reason := some .axisFault } } }

/-- The RSQ takes the fault of the move `m` in RUNNING or STOPPING: the move's point fails, the run is STOPPING, and a drain begins
that returns a CAPTURED point (R23, R43, R45, R87). A second fault of one move is not reported. That the group and its phase stand
until the collection, also where the point was the group's last member, is the model's choice (log 43). -/
def Blocks.FaultReported (b b' : Blocks) (m : Move) : Prop :=
  let r := match m.seq with
    | none => b.rsq
    | some q => b.rsq.failsOnAxis q
  let r := { r with run := .stopping, draining := true }
  (m.faultMark = true →
      b'.rsq.run = b.rsq.run ∧ b'.rsq.draining = b.rsq.draining ∧ b'.rsq.resultQueue = b.rsq.resultQueue)
    ∧ (m.faultMark = false → b.rsq.run = .running ∨ b.rsq.run = .stopping → (b.phase = .resetting → b.rsq.draining = true) →
        (b.rsq.draining = true ∨ r.now = none →
            b'.rsq = r
              ∧ (b.rpu.Ok → m.seq ≠ none → b'.rpu.counters[Counter.pointsFailed.index]
                  = min 65535 (b.rpu.counters[Counter.pointsFailed.index] + 1)))
          ∧ ∀ q v, b.rsq.draining = false → r.now = some { seq := q, cond := .captured v } → r.group ≠ none →
              r.next.map (·.seq) ≠ some q → r.last.map (·.seq) ≠ some q → q ∉ r.groupList →
                b'.rsq = { r with
                  now := none
                  groupList := ((r.group.map (·.order)).getD []).filter fun k => k = q ∨ k ∈ r.groupList
                  points := r.pointsWith q fun p => { p with progress := { p.progress with state := .indented } } })

/-- An axis of the driven move `m` faults: `b` has that axis already unknown and FAULTED in `m`. The fault mark is set, every other
axis that moves is sent its stop command, an INDEXING turret runs on, and the fault is reported (R86, R87). -/
def Blocks.TakesMoveFault (b b' : Blocks) (e : Site) (m : Move) : Prop :=
  b'.adu.memory = b.adu.memory ∧ b'.adu.turret = b.adu.turret ∧ b'.adu.gap = b.adu.gap
    ∧ (∀ l, b'.adu.axis l = if (m.goal l).any (fun g => g.progress.stoppable) then
        { b.adu.axis l with timer := some e.now, cmd := some .stop } else b.adu.axis l)
    ∧ ∃ k, b'.adu.move = some k ∧ k.faultMark = true
        ∧ (∀ l, k.goal l = (m.goal l).map fun g =>
            { g with progress := if g.progress.stoppable then .stopping else g.progress })
        ∧ k.turret = m.turret.map (fun g => { g with
            progress := if g.progress.stoppable then (if b.adu.turret.isIndexing then .stopping else .stopped)
              else g.progress })
        ∧ ((∀ n, b.rsq.now = some n → n.cond ≠ .indenting ∧ n.cond ≠ .capturing) →
            b.MotionFollows b' e m k ∧ b.FaultReported b' m)

/-- The turret faults in a move: UNKNOWN, its drive withdrawn, TURRETFAULT raised, FAULTED in the move (R79, R87). `a` is the axis unit
with the event's capture in place. -/
def Blocks.TurretFaults (b b' : Blocks) (e : Site) (a : Adu) (m : Move) (g : TurretGoal) : Prop :=
  let m' := { m with turret := some { g with progress := .faulted } }
  b'.rpu.isSet .turretFault = true ∧ b'.adu.indexStamp = a.indexStamp ∧ b'.adu.indexHome = a.indexHome
    ∧ Blocks.TakesMoveFault { b with adu := { a with turret := .unknown, gap := none, move := some m' } } b' e m'

/-- The turret is UNKNOWN with its fault raised, and nothing of the axis unit is otherwise changed from `a` (R88). -/
def Blocks.LosesTurret (b b' : Blocks) (e : Site) (a : Adu) : Prop :=
  b'.rpu.isSet .turretFault = true ∧ b'.adu.turret = .unknown ∧ b'.adu.gap = none ∧ b'.adu.indexStamp = a.indexStamp
    ∧ b'.adu.indexHome = a.indexHome ∧ b'.adu.memory = a.memory ∧ (∀ l, b'.adu.axis l = a.axis l)
    ∧ (b.rsq.moveInFlight ≠ none →
        b'.adu = { a with turret := .unknown, gap := none } ∧ b'.ldu = b.ldu ∧ b'.egu = b.egu)
    ∧ (b.Waits → b.LinesOk →
        Blocks.FlowsTo { b with
          adu := { a with turret := .unknown, gap := none }
          rpu := b.rpu.raised e.cfg.bench.enables .turretFault } b')

/-- The index of a phase move starts: from AT by the shorter way, homing from UNKNOWN, ARRIVED at once when the turret stands at its
target (R76, R77, R78). -/
def Adu.IndexStarts (a a' : Adu) (now : Stamp) (g : TurretGoal) : Prop :=
  (∀ c, a.turret = .at c → c ≠ g.target →
      a'.turret = .indexing (some c) (if (g.target.val + 6 - c.val) % 6 ≤ 3 then .forward else .reverse)
        ∧ a'.gap = some now ∧ a'.move.bind (·.turret) = some g)
    ∧ (a.turret = .at g.target →
        a'.turret = a.turret ∧ a'.gap = a.gap ∧ a'.move.bind (·.turret) = some { g with progress := .arrived })
    ∧ (a.turret = .unknown →
        a'.turret = .indexing none .forward ∧ a'.gap = some now ∧ a'.homingCount = 0
          ∧ a'.move.bind (·.turret) = some { g with progress := .homing })

/-- A focus step of the capture `c` of `q` fails: the focus is unknown, the capture ends and gives back its bank and QUIET, the
point is FAILED with AXISFAULT, and the run drains: to its end at once when the gauge is empty (R23, R45, R84, R122). -/
def Blocks.StepFails (b b' : Blocks) (q : Seq) (k : BankId) : Prop :=
  let r := { b.rsq.failsOnAxis q with run := .stopping, draining := true }
  b'.adu = { b.adu with step := none, f := { b.adu.f with known := false, timer := none } }
    ∧ b'.ldu = b.ldu ∧ b'.bcu.own = .idle ∧ b'.bcu.claims = []
    ∧ b'.bcu.peers = b.bcu.peers ∧ b'.bcu.benchQueue = b.bcu.benchQueue
    ∧ (b.ggu ≠ none ∨ b.phase ≠ .resetting → b'.rpu.isSet .focusFault = true ∧ b'.egu = { b.egu with search := none }
        ∧ b'.riu = b.riu.gaveUp k
        ∧ (b.rpu.Ok → b'.rpu.counters[Counter.pointsFailed.index]
            = min 65535 (b.rpu.counters[Counter.pointsFailed.index] + 1)))
    ∧ (b.ggu ≠ none → b'.rsq = r ∧ b'.ggu = b.ggu ∧ b'.phase = b.phase)
    ∧ (b.ggu = none → b.Stops b' r)

/-! ### The pipeline as a whole (R4 to R11, R27, R115) -/

/-- The seqs of the points that a list or a slot of the sequencer holds (R10). -/
def Rsq.places (r : Rsq) : List Seq :=
  r.orderList ++ r.groupList ++ (r.next.map (·.seq)).toList ++ (r.now.map (·.seq)).toList ++ (r.last.map (·.seq)).toList

/-- The record of `p` stands where its state says, and has the parts its state says (R4, R5, R7, R10, R11). -/
def Rsq.RecordOk (r : Rsq) (p : Point) : Prop :=
  let q := p.plan.seq
  let st := p.progress.state
  (st = .waiting ∨ st = .indented → q ∈ r.orderList ++ r.groupList ++ (r.next.map (·.seq)).toList)
    ∧ (st = .indenting → ∃ n ∈ r.now, n.seq = q ∧ n.cond = .indenting)
    ∧ (st = .viewing → ∃ n ∈ r.now, n.seq = q ∧ n.cond ≠ .indenting)
    ∧ (st = .measuring → ∃ l ∈ r.last, l.seq = q)
    ∧ (st = .done ∨ st = .failed ∨ st = .cancelled → q ∉ r.places)
    ∧ (p.progress.reason.isSome = true ↔ st = .failed ∨ st = .cancelled)
    ∧ (p.result.isSome = true ↔ st = .done)
    ∧ (st = .waiting ∨ st = .indenting → p.indent = none)
    ∧ (st = .indented ∨ st = .viewing ∨ st = .measuring ∨ st = .done → p.indent.isSome = true)
    ∧ (q ∈ r.resultQueue → st = .done ∨ st = .failed ∨ st = .cancelled)

/-- The Point Table keyed, every open record in exactly one place, every place and every queued RESULT a record's (R2, R8 to R11). -/
def Rsq.RecordsOk (r : Rsq) : Prop :=
  r.TableOk ∧ r.places.Nodup ∧ r.resultQueue.Nodup
    ∧ (∀ q ∈ r.places ++ r.resultQueue, ∃ p ∈ r.points, p.plan.seq = q) ∧ ∀ p ∈ r.points, r.RecordOk p

/-- The group in progress: at most 8 members that share their tools, none of them in the Order List, and every other place one of
theirs; what each phase of it admits; a run goes exactly while a group is in progress (R9, R12, R27, R29, R32, R37). In a drain
the group stands until the collection, though its last member may have ended before: the model's choice (log 43). -/
def Rsq.GroupOk (r : Rsq) : Prop :=
  (r.group.isSome = true ↔ r.phase.isSome = true)
    ∧ (r.group.isSome = true ↔ r.run = .running ∨ r.run = .stopping)
    ∧ (r.group = none → r.groupList = [] ∧ r.next = none ∧ r.now = none ∧ r.last = none ∧ r.moveInFlight = none
        ∧ r.draining = false)
    ∧ (∀ g ∈ r.group, g.order ≠ [] ∧ g.order.length ≤ 8 ∧ g.order.Nodup
        ∧ (∀ q ∈ g.order, q ∉ r.orderList
            ∧ ∃ p ∈ r.points, p.plan.seq = q ∧ p.plan.indenter = g.indenter ∧ p.plan.objective = g.objective)
        ∧ ∀ q ∈ r.places, q ∉ r.orderList → q ∈ g.order)
    ∧ (r.phase = some .indent → r.last = none ∧ (∀ n ∈ r.now, n.cond = .indenting)
        ∧ ∀ n ∈ r.next, r.stateOf n.seq = some .waiting)
    ∧ (r.phase = some .view → (∀ n ∈ r.now, n.cond ≠ .indenting)
        ∧ (∀ n ∈ r.next, r.stateOf n.seq = some .indented) ∧ ∀ q ∈ r.groupList, r.stateOf q = some .indented)
    ∧ (∀ n ∈ r.next, n.cond = .travelling → r.moveInFlight = some (.point n.seq) ∨ r.draining = true)
    ∧ (r.draining = true → ∀ n ∈ r.now, n.cond = .indenting ∨ n.cond = .capturing)
    ∧ (r.stageAt.isSome = true → r.moveInFlight = none)

/-- The move in hand is the move in flight, ordered for the phase and for a point that still waits for it; a move stopped or failed
drains (R27 to R32, R42, R45, R74, R86, R87). -/
def Blocks.MoveOk (b : Blocks) (m : Move) : Prop :=
  (m.faultMark = true ∨ m.stopMark = true ∨ m.cond = .endedStopped → b.rsq.draining = true) ∧
  match m.kind with
  | .phase => b.rsq.moveInFlight = some .phaseMove ∧ m.seq = none ∧ b.rsq.now = none ∧ b.rsq.next = none
  | .point | .view =>
    b.rsq.phase = some (if m.kind = .point then .indent else .view) ∧ (m.kind = .point → b.rsq.now = none)
      ∧ ∃ q ∈ m.seq, b.rsq.moveInFlight = some (.point q)
          ∧ (m.faultMark = false → q ∈ b.rsq.groupList ∨ ∃ n ∈ b.rsq.next, n.seq = q ∧ n.cond ≠ .arrived)

/-- The units work for the points in the slots: the LDU and the RIU for NOW, the GGU for LAST, the ADU for the move in flight; a drain
lasts while something is in flight, and a RESETTING station drains (R20, R26, R27, R94, R119, R145). -/
def Blocks.UnitsOk (b : Blocks) : Prop :=
  (b.ldu.phase = .rest ↔ b.ldu.order = none)
    ∧ (∀ o ∈ b.ldu.order, b.rsq.now = some { seq := o.seq, cond := .indenting })
    ∧ (∀ n ∈ b.rsq.now, n.cond = .indenting → b.ldu.order.isSome = true)
    ∧ (b.ldu.phase = .loading ∨ b.ldu.phase = .dwell → b.ldu.contact.isSome = true)
    ∧ (b.ldu.phase = .unloading ∨ b.ldu.phase = .retract → b.ldu.cause.isSome = true ∨ b.ldu.part.isSome = true)
    ∧ (∀ c ∈ b.riu.capture, b.rsq.now = some { seq := c.seq, cond := .capturing })
    ∧ (∀ n ∈ b.rsq.now, n.cond = .capturing → b.riu.capture.isSome = true)
    ∧ (∀ m ∈ b.ggu, ∃ l ∈ b.rsq.last, l.seq = m.seq ∧ l.values.bank = m.bank)
    ∧ (b.rsq.last.isSome = true → b.ggu.isSome = true)
    ∧ (∀ m ∈ b.adu.move, b.MoveOk m) ∧ (b.rsq.moveInFlight.isSome = true → b.adu.move.isSome = true)
    ∧ (b.rsq.draining = true → nothingInFlight b = false) ∧ (b.phase = .resetting → b.rsq.draining = true)

/-- The Bank Tags: TARGET exactly the bank of the capture in hand, so at most one; MEASURING only LAST's, or one a RESETSTN has
left so; owner and serial present exactly in FILLED and MEASURING, and a hold only there; a capture that waits for the lamp or for
a bank has none; a CAPTURED point's bank FILLED under its seq (R115, R118, R119, R125, R127). -/
def Blocks.BanksOk (b : Blocks) : Prop :=
  (∀ k : BankId,
      let t := b.riu.tags[k]
      let framed := t.state = .filled ∨ t.state = .measuring
      (t.state = .target ↔ b.riu.capture.bind (·.bank) = some k)
        ∧ (t.hold = true → framed) ∧ (t.owner.isSome = true ↔ framed) ∧ (t.serial.isSome = true ↔ framed)
        ∧ (t.state = .measuring → b.phase = .resetting ∨ ∃ l ∈ b.rsq.last, l.values.bank = k))
    ∧ (∀ c ∈ b.riu.capture, c.cond = .waitLamp ∨ c.cond = .waitBank → c.bank = none)
    ∧ (∀ n ∈ b.rsq.now, match n.cond with
        | .captured v => b.riu.tags[v.bank].state = .filled ∧ b.riu.tags[v.bank].owner = some n.seq
        | .indenting | .capturing => True)
    ∧ ∀ l ∈ b.rsq.last, b.riu.tags[l.values.bank].state = .measuring ∧ b.riu.tags[l.values.bank].owner = some l.seq

/-- The pipeline in order: records, group, units, banks. -/
def Blocks.PipelineOk (b : Blocks) : Prop :=
  b.rsq.RecordsOk ∧ b.rsq.GroupOk ∧ b.UnitsOk ∧ b.BanksOk

/-! ### The bytes of the answers, field by field (R159, R169, R170, R171, R175) -/

/-- A field of some bytes, most significant first; signed values are two's complement (R169). -/
def field (bytes : Nat) (z : Int) : List Byte :=
  match bytes with
  | 0 => []
  | n + 1 => BitVec.ofInt 8 (z / 256 ^ n) :: field n z

/-- The code of a value: its place in the table the spec gives. -/
def codeIn {α : Type} [DecidableEq α] (table : List α) (x : α) : Int :=
  table.findIdx fun y => decide (y = x)

/-- R170: the point states. -/
def codedStates : List PointState :=
  [.waiting, .indenting, .indented, .viewing, .measuring, .done, .failed, .cancelled]

/-- R170: the reasons, absent first. -/
def codedReasons : List (Option Reason) :=
  [none, some .noContact, some .contactLost, some .overload, some .forceSat, some .rampSlow, some .unstable, some .cellSilent
    , some .noImpression, some .clipped, some .tooSmall, some .lowLight, some .focusPoor, some .rowLost, some .camSilent
    , some .axisFault, some .halted]

/-- R170: the verdicts. -/
def codedVerdicts : List Verdict :=
  [.pass, .low, .high, .noLimit]

/-- R159: the announced states of STATE frames, and R170's two of the Peer Table. -/
def codedPeerStates : List PeerState :=
  [.heard .idle, .heard .waitMove, .heard .moving, .heard .settling, .heard .waitQuiet, .heard .quiet, .absent, .lost]

/-- R159: the run states. -/
def codedRuns : List RunState :=
  [.empty, .loaded, .running, .stopping, .halted, .finished]

/-- R170: the own coordination states. -/
def codedOwnStates : List OwnState :=
  [.idle, .waitMove, .starting, .checking, .moving, .settling, .waitQuiet, .holding, .quiet, .blocked]

/-- Up to three marks as bits 0, 1 and 2. -/
def marks (b0 b1 b2 : Bool) : Int :=
  b0.toNat + 2 * b1.toNat + 4 * b2.toNat

/-- The result flags: ASYM, SPLIT, SPACING (R170). -/
def ResultPart.marks (r : ResultPart) : Int :=
  Machine.marks r.asym r.split r.spacing

/-- View PLAN of READPT (R170). -/
def Point.planLayout (p : Point) : List Byte :=
  field 2 p.plan.seq ++ field 1 p.plan.group ++ field 4 p.plan.x ++ field 4 p.plan.y ++ field 1 p.plan.indenter.val
    ++ field 1 p.plan.objective.val ++ field 2 p.plan.force ++ field 2 p.plan.dwell
    ++ field 1 (if p.plan.edge = .outer then 0 else 1) ++ field 1 (marks p.plan.low.isSome p.plan.high.isSome false)
    ++ field 2 (p.plan.low.getD 0) ++ field 2 (p.plan.high.getD 0) ++ field 2 (p.plan.origin.getD 0)
    ++ field 1 (codeIn codedStates p.progress.state) ++ field 1 (codeIn codedReasons p.progress.reason)
    ++ field 1 p.progress.recaptures ++ field 1 p.progress.rowRecaptures ++ field 1 p.progress.windowTop
    ++ field 2 p.progress.shiftX ++ field 2 p.progress.shiftY

/-- View RESULT of READPT (R170). -/
def Point.resultLayout (p : Point) : List Byte :=
  field 1 (codeIn codedStates p.progress.state) ++ field 1 (codeIn codedReasons p.progress.reason)
    ++ field 1 (marks p.indent.isSome p.result.isSome false)
    ++ (match p.indent with
      | none => List.replicate 11 0
      | some i => field 4 i.stamp.toNat ++ field 2 i.mean ++ field 2 i.peak ++ field 1 i.excursions ++ field 2 i.depth)
    ++ (match p.result with
      | none => List.replicate 23 0
      | some r => field 4 r.dH ++ field 4 r.dV ++ field 2 r.hardness ++ field 1 (codeIn codedVerdicts r.verdict)
          ++ field 1 r.marks ++ field 2 r.offX ++ field 2 r.offY ++ field 4 r.stamp.toNat ++ field 1 r.level
          ++ field 2 r.height)

/-- The data of READSTAT (R171). -/
def Blocks.statLayout (b : Blocks) : List Byte :=
  let bank (t : BankTag) := field 1 (codeIn [BankState.free, .target, .filled, .measuring] t.state)
    ++ field 2 (t.owner.getD 0) ++ field 2 (t.serial.getD 0) ++ field 1 t.hold.toNat
  field 1 (codeIn [StationPhase.unconfigured, .ready, .parked, .resetting] b.phase) ++ field 1 (codeIn codedRuns b.rsq.run)
    ++ field 1 (codeIn codedOwnStates b.bcu.own) ++ field 1 b.rsq.points.length ++ field 1 b.rsq.orderList.length
    ++ field 1 (codeIn [none, some GroupPhase.indent, some .view] b.rsq.phase)
    ++ field 2 ((b.rsq.next.map (·.seq)).getD 0)
    ++ field 1 (codeIn [none, some NextCond.pending, some .travelling, some .arrived] (b.rsq.next.map (·.cond)))
    ++ field 2 ((b.rsq.now.map (·.seq)).getD 0)
    ++ field 1 (match b.rsq.now with
      | none => 0
      | some { seq := _, cond := .indenting } => 4
      | some { seq := _, cond := .capturing } => 5
      | some { seq := _, cond := .captured _ } => 6)
    ++ field 2 ((b.rsq.last.map (·.seq)).getD 0) ++ field 1 (if b.rsq.last = none then 0 else 7)
    ++ field 1 (match b.adu.turret with
      | .at p => p.val
      | .indexing _ _ => 6
      | .unknown => 7)
    ++ field 1 b.riu.lamp ++ field 1 b.riu.rows.length ++ field 1 b.riu.peakFill ++ bank b.riu.tags[0] ++ bank b.riu.tags[1]
    ++ field 1 ((List.finRange 6).map fun g => if b.rpu.flags[g] = 0 then 0 else 2 ^ g.val).sum

/-- A Peer Table entry in READPEERS (R170). -/
def PeerEntry.layout (p : PeerEntry) : List Byte :=
  field 1 (codeIn codedPeerStates p.announced) ++ field 1 ((p.run.map (codeIn codedRuns)).getD 0)
    ++ field 2 (p.work.getD 0)

/-- The data of READPEERS, by part (R170). -/
def Bcu.peersLayout (c : Bcu) (part : Nat) : List Byte :=
  if part = 2 then
    field 1 (codeIn codedOwnStates c.own) ++ field 1 (marks c.peerLost c.lineStuck false) ++ field 1 c.benchQueue.length
      ++ c.benchQueue.flatMap fun s => field 1 s.val
  else (List.range 8).flatMap fun i => (c.peers.toList.getD (8 * part + i) PeerEntry.absent).layout

/-- The payload of a RESULT (R175). -/
def Point.resultFrame (p : Point) : List Byte :=
  field 2 p.plan.seq ++ field 1 (codeIn codedStates p.progress.state) ++ field 1 (codeIn codedReasons p.progress.reason)
    ++ (match p.progress.state, p.result with
      | .done, some r => field 4 r.dH ++ field 4 r.dV ++ field 2 r.hardness ++ field 1 (codeIn codedVerdicts r.verdict)
          ++ field 1 r.marks
      | _, _ => List.replicate 12 0)
    ++ field 2 ((p.indent.map (·.mean)).getD 0) ++ field 1 p.progress.recaptures ++ field 1 p.progress.rowRecaptures

/-! ### The CONFIG sections, field by field (R178) -/

/-- `v` lies from `lo` to `hi`. -/
def InRange (lo hi v : Int) : Prop :=
  lo ≤ v ∧ v ≤ hi

/-- Section 1 as its payload gives it, every field in range. -/
def BenchSection.Given (v : BenchSection) (p : List Byte) : Prop :=
  v = { moveBudget := byteAt p 2, settleMs := nat16At p 3, silenceMs := nat16At p 5, stuckS := byteAt p 7
        sink := Fin.ofNat 16 (byteAt p 8), enables := p.getD 9 0, edges := p.getD 10 0 }
    ∧ InRange 1 8 v.moveBudget ∧ InRange 20 2000 v.settleMs ∧ InRange 500 5000 v.silenceMs ∧ InRange 2 30 v.stuckS
    ∧ byteAt p 8 ≤ 15 ∧ byteAt p 9 < 64 ∧ byteAt p 10 < 4

/-- One tool position from byte `i` on. -/
def ToolEntry.Given (v : ToolEntry) (p : List Byte) (i : Nat) : Prop :=
  [ToolKind.empty, .vickers, .knoop, .objective][byteAt p i]? = some v.kind
    ∧ v.offX = int16At p (i + 1) ∧ v.offY = int16At p (i + 3) ∧ InRange (-20000) 20000 v.offX ∧ InRange (-20000) 20000 v.offY
    ∧ (v.kind = .objective →
        v.scale = nat16At p (i + 5) ∧ InRange 50 5000 v.scale ∧ byteAt p (i + 7) < 4
          ∧ v.revCol = (p.getD (i + 7) 0).getLsbD 0 ∧ v.revRow = (p.getD (i + 7) 0).getLsbD 1
          ∧ v.focusStart = nat16At p (i + 8) ∧ InRange 0 20000 v.focusStart)
    ∧ (v.kind ≠ .objective → v.scale = 0 ∧ v.revCol = false ∧ v.revRow = false ∧ v.focusStart = 0)

/-- The Tool Table with three positions from `base` on as the payload gives them, the others as held. -/
def ToolsGiven (tools held : Vector ToolEntry 6) (p : List Byte) (base : Nat) : Prop :=
  ∀ i : TurretPos,
    (base ≤ i.val ∧ i.val < base + 3 → ToolEntry.Given tools[i] p (2 + 10 * (i.val - base)))
      ∧ (i.val < base ∨ base + 3 ≤ i.val → tools[i] = held[i])

/-- Section 4 as its payload gives it, every field in range. -/
def LoadSection.Given (v : LoadSection) (p : List Byte) : Prop :=
  v = { scaleFactor := nat16At p 2, contactThreshold := nat16At p 4, releaseThreshold := nat16At p 6
        declareCount := byteAt p 8, releaseCount := byteAt p 9, rampRate := nat16At p 10, band := byteAt p 12
        excursionLimit := byteAt p 13, travelLimit := nat16At p 14, approachSpeed := nat16At p 16 }
    ∧ InRange 1 65535 v.scaleFactor ∧ InRange 5 500 v.contactThreshold ∧ InRange 1 499 v.releaseThreshold
    ∧ InRange 1 15 v.declareCount ∧ InRange 1 15 v.releaseCount ∧ InRange 10 5000 v.rampRate ∧ InRange 5 100 v.band
    ∧ InRange 1 8000 v.travelLimit ∧ InRange 10 10000 v.approachSpeed

/-- Section 5 as its payload gives it, every field in range. -/
def ImageSection.Given (v : ImageSection) (p : List Byte) : Prop :=
  v = { window := byteAt p 2, threshold := byteAt p 3, minRun := byteAt p 4, lightLow := byteAt p 5
        lightHigh := byteAt p 6, lightStep := byteAt p 7, minEnergy := nat32At p 8, focusStep := nat16At p 12
        holdS := byteAt p 14, asymmetry := byteAt p 15, spacing := byteAt p 16 }
    ∧ v.window ∈ [1, 4, 16, 64] ∧ v.threshold ∈ [30, 40, 50, 60, 70] ∧ InRange 2 15 v.minRun ∧ InRange 1 8 v.lightStep
    ∧ InRange 5 500 v.focusStep ∧ InRange 1 60 v.holdS ∧ InRange 10 200 v.asymmetry ∧ InRange 20 40 v.spacing

/-- Section 6 as its payload gives it, every field in range. -/
def StageSection.Given (v : StageSection) (p : List Byte) : Prop :=
  v = { xMin := int32At p 2, xMax := int32At p 6, yMin := int32At p 10, yMax := int32At p 14 }
    ∧ InRange (-500000) 500000 v.xMin ∧ InRange (-500000) 500000 v.xMax
    ∧ InRange (-500000) 500000 v.yMin ∧ InRange (-500000) 500000 v.yMax

/-- `c` is the store `held` with the section that a CONFIG payload names and gives in range. -/
def Settings.Stored (c held : Settings) (p : List Byte) : Prop :=
  (byteAt p 1 = 1 ∧ BenchSection.Given c.bench p ∧ c = { held with bench := c.bench })
    ∨ (byteAt p 1 = 2 ∧ ToolsGiven c.tools held.tools p 0 ∧ c = { held with tools := c.tools })
    ∨ (byteAt p 1 = 3 ∧ ToolsGiven c.tools held.tools p 3 ∧ c = { held with tools := c.tools })
    ∨ (byteAt p 1 = 4 ∧ LoadSection.Given c.load p ∧ c = { held with load := c.load })
    ∨ (byteAt p 1 = 5 ∧ ImageSection.Given c.image p ∧ c = { held with image := c.image })
    ∨ (byteAt p 1 = 6 ∧ StageSection.Given c.stage p ∧ c = { held with stage := c.stage })

/-! ### Columns and blocks (R137, R138, R147) -/

/-- A crossing between logical rows `r` and `r + 1`, of pixels `lo` and `hi` there: light first or dark first, interpolated when
the pair straddles the threshold so, half way otherwise (R137). -/
def CrossesAt (t r lo hi : Nat) (lightFirst : Bool) (x : Nat) : Prop :=
  (lightFirst = true → t ≤ lo → hi < t → x = 16 * r + 16 * (lo - t) / (lo - hi))
    ∧ (lightFirst = false → lo < t → t ≤ hi → x = 16 * r + 16 * (t - lo) / (hi - lo))
    ∧ ((lightFirst = true ∧ (lo < t ∨ t ≤ hi)) ∨ (lightFirst = false ∧ (t ≤ lo ∨ hi < t)) → x = 16 * r + 8)

/-- The crossing a column has between the row taken before, of pixel `before`, and this one, logical row `row` of pixel `here`:
rows rise or, with REVROW, fall (R137). -/
def ScanCrosses (rev : Bool) (t row before here : Nat) (starting : Bool) (x : Nat) : Prop :=
  if rev then CrossesAt t row here before (!starting) x else CrossesAt t (row - 1) before here starting x

/-- The edge unit `u` takes the row `row` of the capture `c` into bank `k` and is `g` then: peak history, threshold, frame values,
column runs with their crossings. A search frame leaves every table alone; a final one writes only its bank's: of the Row Edge
Table only the row taken, in the Column Edge Table the first qualified run's start and each qualified run's end (R132 to R139). -/
def Egu.Slices (u g : Egu) (img : ImageSection) (tool : ToolEntry) (c : Capture) (k : BankId) (row : QueuedRow) : Prop :=
  let values := row.values tool.revCol
  let history := (u.history ++ [peakOf values]).drop (u.history.length + 1 - 64)
  let t := rowThreshold history img.window img.threshold
  let dark := fun j : Nat => values.getD j 0 < t
  let wasDark := fun j : Nat => ∃ w, u.prev = some w ∧ (w.pixels.getD j 0).toNat < w.threshold
  let before := fun j : Nat => (u.prev.map fun w => (w.pixels.getD j 0).toNat).getD 0
  let number : Fin 256 := Fin.ofNat 256
    (if tool.revRow then 255 - (row.number - c.windowTop) else row.number - c.windowTop)
  g.history = history ∧ g.runPeak = max u.runPeak (peakOf values)
    ∧ g.prev = some { pixels := if tool.revCol then row.pixels.reverse else row.pixels, threshold := t }
    ∧ g.energy = min 4294967295 (u.energy + ((values.zip values.tail).map fun v => max v.1 v.2 - min v.1 v.2).sum)
    ∧ g.kind = u.kind ∧ g.search = u.search
    ∧ (∀ j : Fin 256,
        (dark j → ¬ wasDark j →
            g.cols[j].run = 1 ∧ g.cols[j].qualified = false
              ∧ ∃ e, g.cols[j].edge = some e
                  ∧ (u.prev = none → e = if number.val = 0 then 0 else 4080)
                  ∧ (u.prev ≠ none → ScanCrosses tool.revRow t number.val (before j) (values.getD j 0) true e))
          ∧ (dark j → wasDark j →
              g.cols[j].run = min 255 (u.cols[j].run + 1) ∧ g.cols[j].edge = u.cols[j].edge
                ∧ g.cols[j].qualified = (u.cols[j].qualified || decide (min 255 (u.cols[j].run + 1) = img.minRun)))
          ∧ (¬ dark j → wasDark j → g.cols[j].run = 0 ∧ g.cols[j].edge = none)
          ∧ (¬ dark j → ¬ wasDark j → g.cols[j] = u.cols[j]))
    ∧ (u.kind ≠ some .final → g.results = u.results)
    ∧ (u.kind = some .final →
        (∀ j : BankId, j ≠ k → g.results[j] = u.results[j]) ∧ g.results[k].peak = u.results[k].peak
          ∧ (∀ i : Fin 256, i ≠ number → g.results[k].rows[i] = u.results[k].rows[i])
          ∧ (∀ x, rowEdgeOf c.edge (qualifiedRuns t img.minRun values) = some x → g.results[k].rows[number] = some x)
          ∧ (rowEdgeOf c.edge (qualifiedRuns t img.minRun values) = none →
              g.results[k].rows[number] = u.results[k].rows[number])
          ∧ ∀ j : Fin 256,
              let entry := u.results[k].cols[j]
              let entry' := g.results[k].cols[j]
              (¬ wasDark j → entry' = entry)
                ∧ (dark j → wasDark j →
                    (min 255 (u.cols[j].run + 1) = img.minRun → entry = none →
                        entry' = some (if tool.revRow then { top := none, bottom := u.cols[j].edge }
                          else { top := u.cols[j].edge, bottom := none }))
                      ∧ (min 255 (u.cols[j].run + 1) ≠ img.minRun ∨ entry ≠ none → entry' = entry))
                ∧ (¬ dark j → wasDark j →
                    (u.cols[j].qualified = false ∨ entry = none → entry' = entry)
                      ∧ ∀ x, u.cols[j].qualified = true → entry = some x →
                          ∃ e, ScanCrosses tool.revRow t number.val (before j) (values.getD j 0) false e
                            ∧ entry' = some (if tool.revRow then { x with top := some e } else { x with bottom := some e })))

/-- The edge unit `g` completes the frame of bank `k` and is `u` then, but for its search record: each open column run ends at the
window edge, 4,080 when rows were rising and 0 when they were falling, and in a final frame a qualified one so closes its column's
entry; a final frame's peak is the running peak; a search frame leaves every table alone (R137 to R139). -/
def Egu.Closes (g u : Egu) (rev : Bool) (k : BankId) : Prop :=
  u.kind = none ∧ u.history = g.history ∧ u.prev = g.prev ∧ u.runPeak = g.runPeak ∧ u.energy = g.energy
    ∧ (∀ j : Fin 256,
        (g.cols[j].run = 0 → u.cols[j] = g.cols[j])
          ∧ (0 < g.cols[j].run → u.cols[j] = { g.cols[j] with run := 0, edge := none }))
    ∧ (g.kind ≠ some .final → u.results = g.results)
    ∧ (g.kind = some .final →
        (∀ j : BankId, j ≠ k → u.results[j] = g.results[j]) ∧ u.results[k].peak = g.runPeak
          ∧ u.results[k].rows = g.results[k].rows
          ∧ ∀ j : Fin 256,
              let entry := g.results[k].cols[j]
              (g.cols[j].run = 0 ∨ g.cols[j].qualified = false ∨ entry = none → u.results[k].cols[j] = entry)
                ∧ ∀ x, 0 < g.cols[j].run → g.cols[j].qualified = true → entry = some x →
                    u.results[k].cols[j]
                      = some (if rev then { x with top := some 0 } else { x with bottom := some 4080 }))

/-- A block of the Row Edge Table: ends present, at most 2 absent rows together inside, no present row within 2 absent rows outside
(R147). -/
def FrameResults.IsBlock (res : FrameResults) (a b : Fin 256) : Prop :=
  a ≤ b ∧ res.rows[a].isSome = true ∧ res.rows[b].isSome = true
    ∧ (∀ i : Nat, a.val ≤ i → i + 2 ≤ b.val → ∃ j : Fin 256, i ≤ j.val ∧ j.val ≤ i + 2 ∧ res.rows[j].isSome = true)
    ∧ (∀ i : Fin 256, i < a → res.rows[i].isSome = true → i.val + 4 ≤ a.val)
    ∧ ∀ i : Fin 256, b < i → res.rows[i].isSome = true → b.val + 4 ≤ i.val

/-- The block rows from `a` to `b` that `sel` selects (R147). -/
def FrameResults.blockRows (res : FrameResults) (a b : Fin 256) (sel : RowEdge → Bool) : Nat :=
  (List.finRange 256).countP fun i => decide (a ≤ i) && decide (i ≤ b) && res.rows[i].any sel

/-- The impression block: the most block rows, the lowest first row among equals (R147). -/
def FrameResults.IsImpression (res : FrameResults) (a b : Fin 256) : Prop :=
  res.IsBlock a b ∧ ∀ c d, res.IsBlock c d →
    res.blockRows c d (fun _ => true) < res.blockRows a b (fun _ => true)
      ∨ (res.blockRows c d (fun _ => true) = res.blockRows a b (fun _ => true) ∧ a ≤ c)

/-- Least left, greatest right and greatest width over the block rows, and the greatest height over the present columns of the
span they make, 0 when none is (R147, R151). -/
def FrameResults.Extent (res : FrameResults) (a b : Fin 256) (left right wide tall : Nat) : Prop :=
  let row := fun e : RowEdge => ∃ i : Fin 256, a ≤ i ∧ i ≤ b ∧ res.rows[i] = some e
  let column := fun e : ColEdge => ∃ j : Fin 256, left / 16 ≤ j.val ∧ j.val ≤ right / 16 ∧ res.cols[j] = some e
  let height := fun e : ColEdge => e.bottom.getD 0 - e.top.getD 0
  (∃ e, row e ∧ e.left = left) ∧ (∃ e, row e ∧ e.right = right) ∧ (∃ e, row e ∧ e.right - e.left = wide)
    ∧ (∀ e, row e → left ≤ e.left ∧ e.right ≤ right ∧ e.right - e.left ≤ wide)
    ∧ (∀ e, column e → height e ≤ tall) ∧ (tall = 0 ∨ ∃ e, column e ∧ height e = tall)

/-- The re-centring of a clip of rows `a` to `b` and sides `left` and `right` that is not through (R149, R150). -/
def Recentring.For (rc : Recentring) (m : Measurement) (a b : Fin 256) (left right : Nat) : Prop :=
  let off : Int := a.val + b.val - 255
  let err := if 0 ≤ off then (off + 1) / 2 else -((1 - off) / 2)
  let top := max 0 (min 64 ((m.windowTop : Int) + if m.revRow then -err else err))
  let residual := err - if m.revRow then m.windowTop - top else top - m.windowTop
  let vertical := a.val = 0 ∨ b.val = 255
  let horizontal := left = 0 ∨ right = 4080
  rc.top = (if vertical ∧ top ≠ m.windowTop then some top.toNat else none)
    ∧ rc.dx = (if horizontal then some ((2 * (((left : Int) + right - 4080) * m.scale) + 3200) / 6400) else none)
    ∧ rc.dy = (if vertical ∧ residual ≠ 0 then some ((2 * (residual * m.scale) + 100) / 200) else none)

end Sys2Proof.Machine
end

