-- ==== Sys2Proof/Certificates/Slice0/Obligations.lean ====
section
/-! DEFINITION. The statements for the provers, in the order of the chapters: the block as a whole, the link, the requests,
the bench, the axes, the load unit, the image path, the gauge. -/

open Sys2Proof Sys2Proof.Machine

/-! ### The block as a whole -/

/-- A step takes the command at the front of the queue and runs it on the queue's rest; with no command waiting the block
idles (the model's choice, log 6). -/
def Obligations.StepTakesTheFrontCommand : Prop :=
  ∀ (c : Instr) (rest : List Instr) (s : State),
    (s.pending = c :: rest → step s = exec c { s with pending := rest }) ∧ (s.pending = [] → step s = .next s)

/-- Every command runs to a next state, from every state. A stopped report outside its axis's range, which no driver gives, runs
too: it alone takes a free value (the model's choice, log 23). -/
def Obligations.WellFormedCommandsRun : Prop :=
  ∀ (c : Instr) (s : State), ∃ t, exec c s = .next t ∧ (c.wellFormed = true → t.free = s.free)

/-- What no command touches: the queue (that PIN_RESET keeps it too is the model's choice, log 30); but for PIN_RESET the station
number; but for PIN_RESET and TIMEBASE_TICK the timebase; but for PIN_RESET and a CONFIG in UNCONFIGURED the configuration and
its store. -/
def Obligations.CommandsKeepTheSite : Prop :=
  ∀ (c : Instr) (s t : State), exec c s = .next t →
    t.pending = s.pending
      ∧ ((∀ strap, c ≠ .pinReset strap) →
          t.site.station = s.site.station
            ∧ (c ≠ .timebaseTick → t.site.now = s.site.now)
            ∧ ((c ≠ .config ∨ s.blk.phase ≠ .unconfigured) →
                t.site.cfg = s.site.cfg ∧ t.held = s.held ∧ t.received = s.received))

/-- A pixel of the banks changes only in ROW_WRITE_COMPLETE, and there only inside the logical row written: every other byte
reads as before, and byte `i` of that row is logical column `i` of the row at the head of the Row Queue (R116). -/
def Obligations.PixelsChangeOnlyByARowWrite : Prop :=
  ∀ (c : Instr) (s t : State), exec c s = .next t →
    (c ≠ .rowWriteComplete → t.mem = s.mem)
      ∧ (c = .rowWriteComplete → s.blk.riu.rowInWrite = none → t.mem = s.mem)
      ∧ (∀ (cap : Capture) (k : BankId) (row : QueuedRow),
          c = .rowWriteComplete → s.blk.riu.rowInWrite = some (cap, k, row) →
            let tool := s.site.cfg.tools[cap.objective]
            let p := row.number - cap.windowTop
            let base := pixelAddress k (if tool.revRow then 255 - p else p) 0
            (∀ a, a < base ∨ base + row.pixels.length ≤ a → t.mem.read a = s.mem.read a)
              ∧ ∀ i, i < row.pixels.length →
                  t.mem.read (base + i) = row.pixels.getD (if tool.revCol then row.pixels.length - 1 - i else i) 0)

/-- PIN_RESET returns every block to the pin-reset values of its chapter, whatever the state: the straps become the station
number, the configuration store is cleared, the pixels stay. The zeros of values no reset table names are the model's
(log 1); the reported line levels, the pixels and the queue stay by the model's choice (log 30), and so does the model's own
count of free values (log 23). -/
def Obligations.PinResetReturnsEveryBlock : Prop :=
  ∀ (strap : Station) (s : State), ∃ t, exec (.pinReset strap) s = .next t
    ∧ (t.site.station = strap ∧ t.site.now = 0 ∧ t.site.cfg = Settings.cleared ∧ t.held = Settings.cleared
        ∧ (∀ i : Fin 6, t.received[i] = false) ∧ t.blk.phase = .unconfigured ∧ t.blk.resetSender = none)
    ∧ (t.mem = s.mem ∧ t.pending = s.pending ∧ t.free = s.free)
    ∧ (t.blk.lki.synced = false ∧ t.blk.lki.recv = [] ∧ t.blk.lki.placed = [] ∧ t.blk.lki.reserved = 0
        ∧ t.blk.lki.slot = none ∧ t.blk.lki.tx = .idle)
    ∧ (t.blk.bcu.own = .idle ∧ t.blk.bcu.claims = [] ∧ t.blk.bcu.waiting = [] ∧ t.blk.bcu.benchQueue = []
        ∧ t.blk.bcu.clash = false ∧ t.blk.bcu.sense = none ∧ t.blk.bcu.settle = none ∧ t.blk.bcu.refresh = none
        ∧ t.blk.bcu.peerLost = false ∧ t.blk.bcu.lineStuck = false
        ∧ t.blk.bcu.quietStuck.timer = none ∧ t.blk.bcu.motionStuck.timer = none
        ∧ t.blk.bcu.quietIn = s.blk.bcu.quietIn ∧ t.blk.bcu.motionIn = s.blk.bcu.motionIn
        ∧ t.blk.bcu.peers[strap] = { announced := .heard .idle, run := some .empty, work := none, stamp := some 0 }
        ∧ ∀ p : Station, p ≠ strap →
            t.blk.bcu.peers[p] = { announced := .absent, run := none, work := none, stamp := none })
    ∧ (t.blk.rsq.points = [] ∧ t.blk.rsq.orderList = [] ∧ t.blk.rsq.groupList = [] ∧ t.blk.rsq.next = none
        ∧ t.blk.rsq.now = none ∧ t.blk.rsq.last = none ∧ t.blk.rsq.resultQueue = [] ∧ t.blk.rsq.group = none
        ∧ t.blk.rsq.phase = none ∧ t.blk.rsq.moveInFlight = none ∧ t.blk.rsq.stageAt = none
        ∧ t.blk.rsq.focusFound = false ∧ t.blk.rsq.run = .empty ∧ t.blk.rsq.owner = none ∧ t.blk.rsq.draining = false)
    ∧ (t.blk.adu.turret = .unknown ∧ t.blk.adu.indexStamp = 0 ∧ t.blk.adu.indexHome = false
        ∧ (∀ l, (t.blk.adu.axis l).known = false ∧ (t.blk.adu.axis l).pos = 0 ∧ (t.blk.adu.axis l).timer = none)
        ∧ (∀ p : TurretPos, t.blk.adu.memory[p] = 0) ∧ t.blk.adu.move = none ∧ t.blk.adu.step = none
        ∧ t.blk.adu.gap = none)
    ∧ (t.blk.ldu.phase = .rest ∧ t.blk.ldu.pos = 0 ∧ t.blk.ldu.order = none ∧ t.blk.ldu.window = List.replicate 16 0
        ∧ t.blk.ldu.tare = 0 ∧ t.blk.ldu.touching = false ∧ t.blk.ldu.runCount = 0 ∧ t.blk.ldu.contact = none
        ∧ t.blk.ldu.sum = 0 ∧ t.blk.ldu.count = 0 ∧ t.blk.ldu.peak = 0 ∧ t.blk.ldu.excursions = 0
        ∧ t.blk.ldu.cause = none ∧ t.blk.ldu.part = none ∧ t.blk.ldu.step = none ∧ t.blk.ldu.rampSlow = none
        ∧ t.blk.ldu.dwell = none ∧ t.blk.ldu.silence = none)
    ∧ (t.blk.riu.capture = none ∧ t.blk.riu.rows = [] ∧ t.blk.riu.peakFill = 0
        ∧ (∀ k : BankId, t.blk.riu.tags[k].state = .free ∧ t.blk.riu.tags[k].owner = none
            ∧ t.blk.riu.tags[k].serial = none ∧ t.blk.riu.tags[k].hold = false)
        ∧ t.blk.riu.counter = 0 ∧ t.blk.riu.port = .free ∧ t.blk.riu.lastTurn = .readout ∧ t.blk.riu.readout = none
        ∧ t.blk.riu.curRow = 0 ∧ t.blk.riu.curCol = 0 ∧ t.blk.riu.lamp = 32 ∧ lampOutput t.blk = some 32
        ∧ t.blk.riu.warmup = some 0 ∧ t.blk.riu.camera = none)
    ∧ ((∀ k : BankId, t.blk.egu.results[k].peak = 0 ∧ (∀ i : Fin 256, t.blk.egu.results[k].rows[i] = none)
            ∧ ∀ i : Fin 256, t.blk.egu.results[k].cols[i] = none)
        ∧ t.blk.egu.history = [] ∧ t.blk.egu.prev = none
        ∧ (∀ i : Fin 256, t.blk.egu.cols[i] = { run := 0, edge := none, qualified := false })
        ∧ t.blk.egu.runPeak = 0 ∧ t.blk.egu.energy = 0 ∧ t.blk.egu.kind = none ∧ t.blk.egu.search = none)
    ∧ (t.blk.ggu = none ∧ (∀ g : Fin 6, t.blk.rpu.flags[g] = 0) ∧ t.blk.rpu.notice = .idle ∧ t.blk.rpu.renew = false
        ∧ ∀ i : Fin 10, t.blk.rpu.counters[i] = 0 ∧ t.blk.rpu.snapshots[i] = 0)

/-- TIMEBASE_TICK adds one to the 32-bit count, which wraps, and changes nothing else. -/
def Obligations.TimebaseTickAddsOne : Prop :=
  ∀ s : State, ∃ t, exec .timebaseTick s = .next t ∧ t.site.now = s.site.now + 1
    ∧ t.site.now.toNat = (s.site.now.toNat + 1) % 4294967296
    ∧ t = { s with site := { s.site with now := s.site.now + 1 } }

/-! ### Invariants -/

/-- After power-on and after every pin reset: the link within its places, the stuck timers with their lines, the claims and the
Bench Queue in order, the Point Table keyed, the load, image and report units in their ranges, the pipeline in order; after
power-on the pixels canonical. -/
def Obligations.InvariantsHoldAfterReset : Prop :=
  State.reset.mem.wf = true
    ∧ ∀ b : Blocks,
        (b = State.reset.blk
          ∨ ∃ (strap : Station) (s t : State), exec (.pinReset strap) s = .next t ∧ b = t.blk) →
        b.LinkOk ∧ b.LinesOk ∧ b.bcu.ClaimsOk ∧ b.bcu.QueueOk ∧ b.rsq.TableOk ∧ b.ldu.Ok ∧ b.riu.Ok ∧ b.rpu.Ok
          ∧ b.PipelineOk

/-- The pixels keep their canonical form at every step: equal banks are equal data. -/
def Obligations.MemoryStaysCanonical : Prop :=
  ∀ s t : State, s.mem.wf = true → step s = .next t → t.mem.wf = true

/-- At every step: at most 4 requests in the Receive Buffer, at most 6 places of the Answer Queue in use, one reservation for
each readout and each RESETSTN in hand. -/
def Obligations.LinkStaysWithinItsPlaces : Prop :=
  ∀ s t : State, s.blk.LinkOk → step s = .next t → t.blk.LinkOk

/-- At every step the Bench Queue holds a station at most once, and only stations whose Peer Table entry is WAITMOVE or
WAITQUIET. -/
def Obligations.BenchQueueHoldsWaitingStations : Prop :=
  ∀ s t : State, s.blk.bcu.QueueOk → step s = .next t → t.blk.bcu.QueueOk

/-- At every step each stuck timer runs exactly while its line is suspect, configured and not stuck, and a stuck line is a
line sensed asserted. -/
def Obligations.StuckTimersFollowTheLines : Prop :=
  ∀ s t : State, s.blk.LinesOk → step s = .next t → t.blk.LinesOk

/-- At every step the pipeline stays in order. The Point Table holds at most 96 records, no two with one seq; each open record
stands in exactly one place, the one its state names, and no closed record in any; the reason is present exactly in FAILED and
CANCELLED, the result part exactly in DONE, the indent part never in WAITING and always from INDENTED to DONE; the Result Queue
names closed records, each once. A group's at most 8 members share their tools, and a run is in progress exactly while a group is.
The LDU and the RIU work for the point in NOW, the GGU for the one in LAST, the ADU for the move in flight; a drain lasts while
one of them works. A bank is TARGET exactly while the capture in hand fills it, so at most one is, and it is never held; owner and
serial are present exactly in FILLED and MEASURING. That a group whose last member has ended in a drain stays in progress until the
collection is the model's choice (log 43). -/
def Obligations.PointTableStaysKeyed : Prop :=
  ∀ s t : State, s.blk.PipelineOk → step s = .next t → t.blk.PipelineOk

/-- A plan part is written once: every record after a command other than ADDPT and RETEST has a plan part that a record had
before it, and after every command but DROPPT, CLEARPLAN, PIN_RESET and the RESETSTN clearing (whose station was RESETTING
or is taking RESETSTN) no plan part is gone. The run owner changes only by RUN, by a pin reset and by that clearing. -/
def Obligations.PlanAndOwnerChangeOnlyByTheirRequests : Prop :=
  ∀ (c : Instr) (s t : State), exec c s = .next t →
    (c ≠ .addpt → c ≠ .retest → ∀ p ∈ t.blk.rsq.points, ∃ p' ∈ s.blk.rsq.points, p'.plan = p.plan)
      ∧ (c ≠ .droppt → c ≠ .clearplan → c ≠ .resetstn → (∀ strap, c ≠ .pinReset strap) → s.blk.phase ≠ .resetting →
          ∀ p ∈ s.blk.rsq.points, ∃ p' ∈ t.blk.rsq.points, p'.plan = p.plan)
      ∧ (t.blk.rsq.owner ≠ s.blk.rsq.owner →
          c = .run ∨ c = .resetstn ∨ (∃ strap, c = .pinReset strap) ∨ s.blk.phase = .resetting)

/-- At every step no counter and no snapshot exceeds 65,535; the force window holds 16 samples, the force word stays within its
clamp, the excursions within 255; the Row Queue holds at most 4 rows, the lamp level stays within 63, the capture counter and
the cursor within their ranges; the Claim Queue holds at most 2 claims, and a claim waits at its unit only while the queue is
full; the Point Table holds at most 96 records, no two with one seq. In every own state at most one of the two bench drivers is
asserted. -/
def Obligations.UnitsStayInTheirRanges : Prop :=
  (∀ s t : State, step s = .next t →
      (s.blk.rpu.Ok → t.blk.rpu.Ok) ∧ (s.blk.ldu.Ok → t.blk.ldu.Ok) ∧ (s.blk.riu.Ok → t.blk.riu.Ok)
        ∧ (s.blk.bcu.ClaimsOk → t.blk.bcu.ClaimsOk) ∧ (s.blk.rsq.TableOk → t.blk.rsq.TableOk))
    ∧ ∀ c : Bcu, c.DriversOk

/-! ### The link -/

/-- The checks of R162 read a frame from received bits exactly when they are the bits of that frame, sender, kind with its class,
destination, length, payload and CRC, and the frame is well formed: 40 payload bytes at most, a STATE frame's payload of 4 bytes
with an announced state and a run state that have a code. So every frame a station can send is read back as it was sent, and all
other bits are refused. -/
def Obligations.FrameBitsRoundTrip : Prop :=
  (∀ f : Frame, f.contentOk = true → Frame.parse f.bits = some f)
    ∧ ∀ (bits : List Bool) (f : Frame),
        Frame.parse bits = some f ↔
          bits = f.bits ∧ f.payload.length ≤ 40
            ∧ (f.kind = .state → f.payload.length = 4 ∧ byteAt f.payload 0 ≤ 5 ∧ byteAt f.payload 1 ≤ 5)

/-- Received bits that fail the checks change nothing but the reports: CRCERRORS counts one, CRCERROR is raised. A good frame of
another station: an ASK to this station joins the Receive Buffer; an ASK or a STATE frame that finds 4 requests there is
dropped and reported; an ASK to another station, an ANS, a RESULT and a NOTICE change nothing. Before the medium has been seen
free no frame is taken. -/
def Obligations.FramesGoWhereTheirKindSends : Prop :=
  ∀ (s : State) (bits : List Bool), s.blk.LinesOk →
    let on := s.site.cfg.bench.enables
    let reports := fun (c : Counter) (n : Notice) =>
      exec (.receiveFrame bits) s
        = .next { s with blk := { s.blk with rpu := (s.blk.rpu.counted on c).raised on n } }
    (s.blk.lki.synced = false → exec (.receiveFrame bits) s = .next s)
      ∧ (s.blk.lki.synced = true → Frame.parse bits = none → reports .crcErrors .crcError)
      ∧ ∀ f : Frame, Frame.parse bits = some f → s.blk.lki.synced = true → f.sender ≠ s.site.station →
          (f.kind = .ask → f.dest = s.site.station → s.blk.lki.recv.length < 4 →
              exec (.receiveFrame bits) s = .next (s.withLki
                { s.blk.lki with recv := s.blk.lki.recv ++ [{ sender := f.sender, payload := f.payload }] }))
            ∧ ((f.kind = .ask ∧ f.dest = s.site.station) ∨ f.kind = .state → 4 ≤ s.blk.lki.recv.length →
                reports .rxDropped .rxDropped)
            ∧ ((f.kind = .ask ∧ f.dest ≠ s.site.station) ∨ f.kind = .ans ∨ f.kind = .result ∨ f.kind = .notice →
                exec (.receiveFrame bits) s = .next s)

/-- A STATE frame of another station that finds room is taken by the BCU: the sender's entry takes the frame and the present
stamp, the Bench Queue follows, every other entry and everything outside the BCU, the STATE slot and the reports stays. The reports
stay too, but that the frame which restores the last LOST entry raises PEERLOST again under BOTH. Then a WAITMOVE or WAITQUIET station
is tested for eligibility. -/
def Obligations.StateFrameUpdatesTheBench : Prop :=
  ∀ (s : State) (bits : List Bool) (f : Frame) (sf : StateFrame),
    s.blk.lki.synced = true → Frame.parse bits = some f → f.kind = .state → f.sender ≠ s.site.station →
    StateFrame.ofPayload f.payload = some sf → s.blk.lki.recv.length < 4 →
      ∃ t, exec (.receiveFrame bits) s = .next t ∧ s.sameOutside t
        ∧ t.blk.bcu.peers[f.sender]
            = { announced := .heard sf.announced, run := some sf.run, work := sf.work, stamp := some s.site.now }
        ∧ (∀ p : Station, p ≠ f.sender → t.blk.bcu.peers[p] = s.blk.bcu.peers[p])
        ∧ t.blk.bcu.benchQueue
            = benchQueueAfter s.blk.bcu.benchQueue f.sender s.blk.bcu.peers[f.sender].announced sf.announced
        ∧ t.blk = { s.blk with
            bcu := t.blk.bcu, rpu := t.blk.rpu, lki := { s.blk.lki with slot := t.blk.lki.slot } }
        ∧ t.blk.bcu.claims = s.blk.bcu.claims ∧ t.blk.bcu.waiting = s.blk.bcu.waiting
        ∧ t.blk.bcu.quietIn = s.blk.bcu.quietIn ∧ t.blk.bcu.motionIn = s.blk.bcu.motionIn
        ∧ s.blk.Tested t.blk s.site ∧ (s.blk.LinesOk → s.blk.ReportsHeard t.blk s.site f.sender)

/-- The Bench Queue's table: what a STATE frame from `s` does to it, by the frame's state and the state of entry `s` before;
what an entry becoming LOST does; and both keep it free of doubles and of stations that do not wait. -/
def Obligations.BenchQueueFollowsTheFrames : Prop :=
  ∀ (c : Bcu) (now : Stamp) (s : Station) (f : StateFrame),
    (f.announced = .waitMove → c.entryState s = .heard .moving →
        (c.takeFrame now s f).benchQueue = s :: c.benchQueue.filter fun q => q != s)
      ∧ (f.announced = .waitMove → c.entryState s = .heard .waitMove → (c.takeFrame now s f).benchQueue = c.benchQueue)
      ∧ (f.announced = .waitQuiet → c.entryState s = .heard .waitQuiet → (c.takeFrame now s f).benchQueue = c.benchQueue)
      ∧ (f.announced = .waitMove → c.entryState s ≠ .heard .moving → c.entryState s ≠ .heard .waitMove →
          (c.takeFrame now s f).benchQueue = (c.benchQueue.filter fun q => q != s) ++ [s])
      ∧ (f.announced = .waitQuiet → c.entryState s ≠ .heard .waitQuiet →
          (c.takeFrame now s f).benchQueue = (c.benchQueue.filter fun q => q != s) ++ [s])
      ∧ (f.announced = .idle ∨ f.announced = .moving ∨ f.announced = .settling ∨ f.announced = .quiet →
          (c.takeFrame now s f).benchQueue = c.benchQueue.filter fun q => q != s)
      ∧ (c.losePeer s).benchQueue = (c.benchQueue.filter fun q => q != s)
      ∧ (c.QueueOk → c.benchQueue.length ≤ 16 ∧ (c.takeFrame now s f).QueueOk ∧ (c.losePeer s).QueueOk)

/-- A good frame that bears the own number is a number clash: NUMBERCLASH is raised and the tables are not touched; a granted
operation goes on with the clash pending, a BLOCKED station stays BLOCKED, and from every other state the station is BLOCKED
at once, its STATE slot emptied and its timers stopped. -/
def Obligations.OwnNumberOnTheLinkIsAClash : Prop :=
  ∀ (s : State) (bits : List Bool) (f : Frame), s.blk.LinesOk → s.blk.lki.synced = true → Frame.parse bits = some f →
    f.sender = s.site.station →
      ∃ t, exec (.receiveFrame bits) s = .next t ∧ s.sameOutside t ∧ t.blk.rpu.isSet .numberClash = true
        ∧ (s.blk.bcu.own = .moving ∨ s.blk.bcu.own = .settling ∨ s.blk.bcu.own = .quiet →
            t.blk = { s.blk with bcu := { s.blk.bcu with clash := true }, rpu := t.blk.rpu })
        ∧ (s.blk.bcu.own = .blocked → t.blk = { s.blk with rpu := t.blk.rpu })
        ∧ (s.blk.bcu.own = .idle ∨ s.blk.bcu.own = .waitMove ∨ s.blk.bcu.own = .starting ∨ s.blk.bcu.own = .checking
              ∨ s.blk.bcu.own = .waitQuiet ∨ s.blk.bcu.own = .holding →
            t.blk = { s.blk with
              lki := { s.blk.lki with slot := none }, rpu := t.blk.rpu
              bcu := { s.blk.bcu with
                own := .blocked, sense := none, settle := none, refresh := none, clash := false
                quietStuck := t.blk.bcu.quietStuck, motionStuck := t.blk.bcu.motionStuck } })

/-- When the medium becomes free an idle transmitter offers the first that exists: STATE slot, answer, pending NOTICE, RESULT
while a run owner is present; with none of them it offers nothing. A lost arbitration leaves the frame in its place. That an
offer or a frame in hand is kept is the model's choice (log 9), and so is that LOSE_ARBITRATION without an offer changes nothing
(log 4). -/
def Obligations.FreeMediumOffersInOrder : Prop :=
  ∀ s : State,
    ∃ t, exec .mediumFree s = .next t ∧ t = s.withLki { s.blk.lki with synced := true, tx := t.blk.lki.tx }
      ∧ (s.blk.lki.tx ≠ .idle → t.blk.lki.tx = s.blk.lki.tx)
      ∧ (s.blk.lki.tx = .idle →
          (s.blk.lki.slot ≠ none → t.blk.lki.tx = .offering .state)
            ∧ (s.blk.lki.slot = none → s.blk.lki.placed ≠ [] → t.blk.lki.tx = .offering .answer)
            ∧ (s.blk.lki.slot = none → s.blk.lki.placed = [] → s.blk.rpu.notice = .pending →
                t.blk.lki.tx = .offering .notice)
            ∧ (s.blk.lki.slot = none → s.blk.lki.placed = [] → s.blk.rpu.notice ≠ .pending →
                s.blk.rsq.resultQueue ≠ [] → s.blk.rsq.owner ≠ none → t.blk.lki.tx = .offering .result)
            ∧ (s.blk.lki.slot = none → s.blk.lki.placed = [] → s.blk.rpu.notice ≠ .pending →
                (s.blk.rsq.resultQueue = [] ∨ s.blk.rsq.owner = none) → t.blk.lki.tx = .idle))
      ∧ (∀ o, s.blk.lki.tx = .offering o → exec .loseArbitration s = .next (s.withLki { s.blk.lki with tx := .idle }))
      ∧ ((∀ o, s.blk.lki.tx ≠ .offering o) → exec .loseArbitration s = .next s)

/-- The offered frame wins the medium, sent as its place holds it then (the model's reading, log 9): a STATE frame leaves the slot, an
answer and a RESULT keep their place, a NOTICE becomes SENDING; NOTICE and RESULT are built in this event, a RESULT field by field.
With nothing offered nothing changes (the model's choice, log 4). -/
def Obligations.WonMediumTakesTheOfferedFrame : Prop :=
  ∀ s : State,
    (∀ f, s.blk.lki.tx = .offering .state → s.blk.lki.slot = some f →
        exec .winMedium s = .next (s.withLki { s.blk.lki with slot := none, tx := .sending (.state f) }))
      ∧ (∀ a rest, s.blk.lki.tx = .offering .answer → s.blk.lki.placed = a :: rest →
          exec .winMedium s = .next (s.withLki { s.blk.lki with tx := .sending (.answer a) }))
      ∧ (s.blk.lki.tx = .offering .notice → s.blk.rpu.notice = .pending →
          exec .winMedium s = .next { s with blk := { s.blk with
            rpu := { s.blk.rpu with notice := .sending }
            lki := { s.blk.lki with tx := .sending (.notice s.site.cfg.bench.sink
              ([s.blk.rpu.summary] ++ s.blk.rpu.flags.toList
                ++ [bitIf 0 s.blk.bcu.peerLost ||| bitIf 1 s.blk.bcu.lineStuck])) } } })
      ∧ (∀ q rest w p, s.blk.lki.tx = .offering .result → s.blk.rsq.resultQueue = q :: rest →
          s.blk.rsq.owner = some w → s.blk.rsq.find q = some p →
            exec .winMedium s
              = .next (s.withLki { s.blk.lki with tx := .sending (.result q w p.resultFrame true) }))
      ∧ ((∀ o, s.blk.lki.tx ≠ .offering o) → exec .winMedium s = .next s)

/-- An abandoned frame: a STATE frame returns to an empty slot unless the station is BLOCKED, a NOTICE becomes PENDING again,
an answer and a RESULT have kept their places. With no frame in transmission nothing changes (the model's choice, log 4). -/
def Obligations.AbandonedFrameReturns : Prop :=
  ∀ s : State,
    (∀ f, s.blk.lki.tx = .sending (.state f) →
        (s.blk.lki.slot = none → s.blk.bcu.own ≠ .blocked →
            exec .frameAbandoned s = .next (s.withLki { s.blk.lki with slot := some f, tx := .idle }))
          ∧ (s.blk.lki.slot ≠ none ∨ s.blk.bcu.own = .blocked →
            exec .frameAbandoned s = .next (s.withLki { s.blk.lki with tx := .idle })))
      ∧ (∀ w p, s.blk.lki.tx = .sending (.notice w p) → s.blk.rpu.notice = .sending →
          exec .frameAbandoned s = .next { s with blk := { s.blk with
            rpu := { s.blk.rpu with notice := .pending }, lki := { s.blk.lki with tx := .idle } } })
      ∧ (∀ a, s.blk.lki.tx = .sending (.answer a) →
          exec .frameAbandoned s = .next (s.withLki { s.blk.lki with tx := .idle }))
      ∧ (∀ q w p b, s.blk.lki.tx = .sending (.result q w p b) →
          exec .frameAbandoned s = .next (s.withLki { s.blk.lki with tx := .idle }))
      ∧ ((∀ f, s.blk.lki.tx ≠ .sending f) → exec .frameAbandoned s = .next s)

/-- The own frame passes: an answer leaves the Answer Queue, a RESULT's entry the Result Queue while it is still there, a
NOTICE ceases to be pending unless it is to be renewed. With no frame in transmission nothing changes (the model's choice,
log 4). -/
def Obligations.PassedFrameLeavesItsQueue : Prop :=
  ∀ s : State,
    (∀ a first rest, s.blk.lki.tx = .sending (.answer a) → s.blk.lki.placed = first :: rest →
        exec .ownFramePasses s = .next (s.withLki { s.blk.lki with placed := rest, tx := .idle }))
      ∧ (∀ q w p first rest, s.blk.lki.tx = .sending (.result q w p true) → s.blk.rsq.resultQueue = first :: rest →
          exec .ownFramePasses s = .next { s with blk := { s.blk with
            rsq := { s.blk.rsq with resultQueue := rest }, lki := { s.blk.lki with tx := .idle } } })
      ∧ (∀ q w p, s.blk.lki.tx = .sending (.result q w p false) →
          exec .ownFramePasses s = .next (s.withLki { s.blk.lki with tx := .idle }))
      ∧ (∀ w p, s.blk.lki.tx = .sending (.notice w p) → s.blk.rpu.notice = .sending →
          exec .ownFramePasses s = .next { s with blk := { s.blk with
            rpu := { s.blk.rpu with notice := if s.blk.rpu.renew then .pending else .idle, renew := false }
            lki := { s.blk.lki with tx := .idle } } })
      ∧ ((∀ f, s.blk.lki.tx ≠ .sending f) → exec .ownFramePasses s = .next s)

/-- The own STATE frame passes and its echo is taken as any STATE frame: the own entry and the Bench Queue follow it, the reports
stay but for the end of PEERLOST, and a WAITMOVE or WAITQUIET station is tested for eligibility. The own MOVING frame passing in
STARTING enters CHECKING with MOTION asserted and starts the sense delay; that a MOVING frame of a cancelled claim does so too is
the model's choice (log 36). -/
def Obligations.OwnStateFrameIsEchoed : Prop :=
  ∀ (s : State) (sf : StateFrame), s.blk.lki.tx = .sending (.state sf) →
    ∃ t, exec .ownFramePasses s = .next t ∧ s.sameOutside t ∧ t.blk.lki.tx = .idle
      ∧ t.blk.bcu.peers[s.site.station]
          = { announced := .heard sf.announced, run := some sf.run, work := sf.work, stamp := some s.site.now }
      ∧ (∀ p : Station, p ≠ s.site.station → t.blk.bcu.peers[p] = s.blk.bcu.peers[p])
      ∧ t.blk.bcu.benchQueue
          = benchQueueAfter s.blk.bcu.benchQueue s.site.station s.blk.bcu.peers[s.site.station].announced sf.announced
      ∧ t.blk.bcu.claims = s.blk.bcu.claims ∧ t.blk.bcu.waiting = s.blk.bcu.waiting
      ∧ t.blk = { s.blk with
          bcu := t.blk.bcu, rpu := t.blk.rpu, lki := { s.blk.lki with slot := t.blk.lki.slot, tx := .idle } }
      ∧ (s.blk.LinesOk → s.blk.ReportsHeard t.blk s.site s.site.station)
      ∧ (s.blk.bcu.own = .starting → sf.announced = .moving →
          t.blk.bcu.own = .checking ∧ t.blk.bcu.drives .motion = true ∧ t.blk.bcu.drives .quiet = false
            ∧ t.blk.bcu.sense = some s.site.now ∧ t.blk.lki.slot = s.blk.lki.slot)
      ∧ (s.blk.bcu.own ≠ .starting ∨ sf.announced ≠ .moving → s.blk.Tested t.blk s.site)

/-! ### The requests -/

/-- The Request Decoder's checks, in order, for every request code; a command whose request is not the one at the head, or
finds no free answer place, changes nothing (the model's choice, logs 3 and 4). -/
def Obligations.RequestsAreScreened : Prop :=
  ∀ (s : State) (r : Request) (rest : List Request),
    (s.mayTake r rest →
        (r.code = none → exec .badcodeRequest s = .next (s.answers r rest .badCode []))
          ∧ (r.code ≠ none → exec .badcodeRequest s = .next s)
          ∧ ∀ c : ReqCode,
              (r.code ≠ some c → exec c.command s = .next s)
                ∧ (r.code = some c →
                    (r.lengthOk c = false → exec c.command s = .next (s.answers r rest .badArg []))
                      ∧ (r.lengthOk c = true → s.blk.phase = .unconfigured →
                          c ≠ .config → c ≠ .readstat → c ≠ .readpeers →
                            exec c.command s = .next (s.answers r rest .notReady []))
                      ∧ (r.lengthOk c = true → s.blk.phase = .resetting → c ≠ .readstat →
                          exec c.command s = .next (s.answers r rest .busy []))))
      ∧ (s.blk.lki.recv = [] ∨ 6 ≤ s.blk.lki.placed.length + s.blk.lki.reserved →
          exec .badcodeRequest s = .next s ∧ ∀ c : ReqCode, exec c.command s = .next s)

/-- CONFIG: BUSY once configured; before, a section with every field in its range is stored field by field and marked received,
one with a field out of range refused (a position that is no OBJECTIVE has no scale, orientation or focus height to check); the
last missing section is validated: BADCONFIG names the first check that fails and unmarks its section, success puts the
configuration in force, fills the Focus Memory and makes the station READY. The first check that fails: section 3 without an
indenter or an objective, 4 and 5 with a lower threshold not below the upper one, 6 with an empty stage range. The reports stay as
they are: flags already set make nothing pending. -/
def Obligations.ConfigFillsTheStore : Prop :=
  (∀ c : Settings,
      let tools := (∃ p : TurretPos, c.tools[p].kind = .vickers ∨ c.tools[p].kind = .knoop)
        ∧ ∃ p : TurretPos, c.tools[p].kind = .objective
      let load := c.load.releaseThreshold < c.load.contactThreshold
      let image := c.image.lightLow < c.image.lightHigh
      let stage := c.stage.xMin < c.stage.xMax ∧ c.stage.yMin < c.stage.yMax
      (¬ tools → Settings.firstFailure c = some 3) ∧ (tools → ¬ load → Settings.firstFailure c = some 4)
        ∧ (tools → load → ¬ image → Settings.firstFailure c = some 5)
        ∧ (tools → load → image → ¬ stage → Settings.firstFailure c = some 6)
        ∧ (tools → load → image → stage → Settings.firstFailure c = none))
    ∧ ∀ (s : State) (r : Request) (rest : List Request),
    s.mayTake r rest → r.code = some .config → r.lengthOk .config = true →
      (s.blk.phase = .ready ∨ s.blk.phase = .parked → exec .config s = .next (s.answers r rest .busy []))
        ∧ (s.blk.phase = .unconfigured →
            ((∀ c : Settings, ¬ Settings.Stored c s.held r.payload) → exec .config s = .next (s.answers r rest .badArg []))
              ∧ ∀ held : Settings, Settings.Stored held s.held r.payload →
                  let got := s.received.set (Fin.ofNat 6 (byteAt r.payload 1 - 1)) true
                  ((∃ i : Fin 6, got[i] = false) →
                      exec .config s = .next { s.answers r rest .done [] with held := held, received := got })
                    ∧ ((∀ i : Fin 6, got[i] = true) → ∀ n, Settings.firstFailure held = some n →
                        exec .config s = .next
                          { s.answers r rest .badConfig [BitVec.ofNat 8 n] with
                            held := held, received := got.set (Fin.ofNat 6 (n - 1)) false })
                    ∧ ((∀ i : Fin 6, got[i] = true) → Settings.firstFailure held = none →
                        ∃ t, exec .config s = .next t ∧ t.site = { s.site with cfg := held } ∧ t.held = held
                          ∧ t.received = got ∧ t.mem = s.mem ∧ t.pending = s.pending
                          ∧ (∀ p : TurretPos, t.blk.adu.memory[p] = (held.tools[p].focusStart : Int))
                          ∧ (s.blk.LinesOk → t.blk.rpu = s.blk.rpu)
                          ∧ t.blk = { s.blk with
                              phase := .ready, lki := s.blk.lki.answered r rest .done []
                              adu := { s.blk.adu with memory := t.blk.adu.memory }, rpu := t.blk.rpu
                              bcu := { s.blk.bcu with
                                quietStuck := t.blk.bcu.quietStuck, motionStuck := t.blk.bcu.motionStuck } }))

/-- ADDPT: its checks in order, and the record, the Order List and the run state after it is taken. -/
def Obligations.AddptEntersARecord : Prop :=
  ∀ (s : State) (r : Request) (rest : List Request), s.mayServe r rest .addpt →
    let a := AddptArgs.ofPayload r.payload
    let q := s.blk.rsq
    (1 < a.edge ∨ 3 < a.presence → exec .addpt s = .next (s.answers r rest .badArg []))
      ∧ (a.edge ≤ 1 → a.presence ≤ 3 →
          (q.run = .stopping → exec .addpt s = .next (s.answers r rest .busy []))
            ∧ (q.run ≠ .stopping → 96 ≤ q.points.length → exec .addpt s = .next (s.answers r rest .full []))
            ∧ (q.run ≠ .stopping → q.points.length < 96 → (∃ p ∈ q.points, p.plan.seq = a.seq) →
                exec .addpt s = .next (s.answers r rest .duplicate []))
            ∧ (q.run ≠ .stopping → q.points.length < 96 → (∀ p ∈ q.points, p.plan.seq ≠ a.seq) →
                ((∀ ind obj, ¬ a.Acceptable s.site.cfg ind obj) → exec .addpt s = .next (s.answers r rest .badArg []))
                  ∧ ∀ ind obj, a.Acceptable s.site.cfg ind obj →
                      exec .addpt s = .next (s.answersWith r rest { q with
                        points := q.points ++ [a.record ind obj], orderList := q.orderList ++ [a.seq]
                        run := if q.run = .empty then .loaded else q.run })))

/-- DROPPT: its checks in order, and the table, the Order List and the run state after it is taken. -/
def Obligations.DropptRemovesARecord : Prop :=
  ∀ (s : State) (r : Request) (rest : List Request), s.mayServe r rest .droppt →
    let q := nat16At r.payload 1
    let u := s.blk.rsq
    ((∀ p ∈ u.points, p.plan.seq ≠ q) → exec .droppt s = .next (s.answers r rest .unknown []))
      ∧ ∀ p, u.find q = some p →
          let held := q ∈ u.groupList ∨ u.next.map (·.seq) = some q ∨ u.now.map (·.seq) = some q ∨ u.last.map (·.seq) = some q
          let works := p.progress.state = .waiting ∨ p.progress.state = .indented
          (held ∨ ¬ works → exec .droppt s = .next (s.answers r rest .busy []))
            ∧ (¬ held → works →
                let points := u.points.filter fun k => k.plan.seq != q
                exec .droppt s = .next (s.answersWith r rest { u with
                  points := points, orderList := u.orderList.filter fun m => m != q
                  run := if points = [] then .empty
                    else if u.run = .halted ∧ ∀ k ∈ points, k.progress.state ≠ .waiting ∧ k.progress.state ≠ .indented then
                      .finished
                    else u.run }))

/-- RUN refused: BUSY while PARKED or while a run is RUNNING or STOPPING, NOTHING without work, which ends a HALTED run; the owner
stays. RUN taken: RUNNING, owned by the sender, the group of R14 formed and its phase begun: with the turret away from the
position the phase needs, by the phase move; with the turret there, by the head's point move or view move. The move is claimed. -/
def Obligations.RunFormsAGroup : Prop :=
  ∀ (s : State) (r : Request) (rest : List Request), s.mayServe r rest .run →
    let q := s.blk.rsq
    let active := q.run = .running ∨ q.run = .stopping
    (s.blk.phase = .parked ∨ active → exec .run s = .next (s.answers r rest .busy []))
      ∧ (s.blk.phase = .ready → ¬ active →
          (∀ p ∈ q.points, p.progress.state ≠ .waiting ∧ p.progress.state ≠ .indented) →
            exec .run s = .next { s with blk := { s.blk with
              lki := s.blk.lki.answered r rest .nothing []
              rsq := { q with run := if q.run = .halted then .finished else q.run } } })
      ∧ ∀ (head : Seq) (tail : List Seq) (p : Point),
          s.blk.phase = .ready → ¬ active → q.orderList = head :: tail → q.find head = some p →
          p.progress.state = .waiting ∨ p.progress.state = .indented → q.moveInFlight = none → q.draining = false →
            let need := if p.progress.state = .indented then p.plan.objective else p.plan.indenter
            s.blk.adu.turret ≠ .at need ∨ (q.next = none ∧ q.now = none ∧ q.last = none) →
              ∃ t, exec .run s = .next t ∧ s.sameOutside t
                ∧ Blocks.StartsGroup { s.blk with rsq := { q with run := .running, owner := some r.sender } } t.blk s.site head p
                ∧ (s.blk.adu.turret ≠ .at need →
                    t.blk = { s.blk with
                      lki := { s.blk.lki.answered r rest .done [] with slot := t.blk.lki.slot }
                      bcu := t.blk.bcu, rpu := t.blk.rpu, riu := s.blk.riu.grantPort, adu := t.blk.adu, rsq := t.blk.rsq })
                ∧ (s.blk.adu.turret = .at need →
                    t.blk.lki = { s.blk.lki.answered r rest .done [] with slot := t.blk.lki.slot } ∧ t.blk.ldu = s.blk.ldu)

/-- HALT: a mode above 1 is refused, STOPPING is BUSY, a run that does not run answers DONE with no effect, BOUNDARY only makes
the run STOPPING. IMMEDIATE makes it STOPPING and starts the drain: the indent in NOW is halted by its phase, the capture in NOW
abandoned or marked, the CAPTURED point returned, the move in flight cancelled or stopped; with nothing left in flight the group is
collected and the run stops. -/
def Obligations.HaltStopsTheRun : Prop :=
  ∀ (s : State) (r : Request) (rest : List Request), s.mayServe r rest .halt →
    let q := s.blk.rsq
    let mode := byteAt r.payload 1
    (1 < mode → exec .halt s = .next (s.answers r rest .badArg []))
      ∧ (mode ≤ 1 → q.run = .stopping → exec .halt s = .next (s.answers r rest .busy []))
      ∧ (mode ≤ 1 → q.run ≠ .stopping → q.run ≠ .running → exec .halt s = .next (s.answers r rest .done []))
      ∧ (mode = 0 → q.run = .running → exec .halt s = .next (s.answersWith r rest { q with run := .stopping }))
      ∧ (mode = 1 → q.run = .running → s.blk.LinesOk → s.blk.phase = .ready →
          ∃ t, exec .halt s = .next t ∧ s.sameOutside t
            ∧ Blocks.Drains { s.blk with
                lki := s.blk.lki.answered r rest .done [], rsq := { q with run := .stopping, draining := true } } t.blk s.site
            ∧ ∀ k, q.now = some { seq := k, cond := .indenting } → s.blk.ldu.phase = .loading ∨ s.blk.ldu.phase = .dwell →
                s.blk.ldu.cause = none → s.blk.adu.move = none →
                  t.blk = { s.blk with
                    lki := s.blk.lki.answered r rest .done [], riu := s.blk.riu.grantPort
                    rsq := { q with run := .stopping, draining := true }, ldu := t.blk.ldu }
                  ∧ t.blk.ldu = { s.blk.ldu with
                      cause := some .halted, part := s.blk.ldu.fillPart s.site.now, phase := .unloading, abort := true
                      rampStamp := s.site.now, rampForce := s.blk.ldu.word, step := none, rampSlow := none
                      dwell := none })

/-- RETEST: its checks in order, and the record and the Order List after it is taken. -/
def Obligations.RetestEntersARecord : Prop :=
  ∀ (s : State) (r : Request) (rest : List Request), s.mayServe r rest .retest →
    let a := RetestArgs.ofPayload r.payload
    let q := s.blk.rsq
    (q.run = .stopping → exec .retest s = .next (s.answers r rest .busy []))
      ∧ (q.run ≠ .stopping →
          ((∀ p ∈ q.points, p.plan.seq ≠ a.original) → exec .retest s = .next (s.answers r rest .unknown []))
            ∧ ∀ p, q.find a.original = some p →
                let ended := p.progress.state = .done ∨ p.progress.state = .failed ∨ p.progress.state = .cancelled
                (¬ ended → exec .retest s = .next (s.answers r rest .busy []))
                  ∧ (ended → 96 ≤ q.points.length → exec .retest s = .next (s.answers r rest .full []))
                  ∧ (ended → q.points.length < 96 → (∃ k ∈ q.points, k.plan.seq = a.seq) →
                      exec .retest s = .next (s.answers r rest .duplicate []))
                  ∧ (ended → q.points.length < 96 → (∀ k ∈ q.points, k.plan.seq ≠ a.seq) →
                      (¬ a.Acceptable s.site.cfg p.plan → exec .retest s = .next (s.answers r rest .badArg []))
                        ∧ (a.Acceptable s.site.cfg p.plan →
                            exec .retest s = .next (s.answersWith r rest { q with
                              points := q.points ++ [a.record p.plan], orderList := a.seq :: q.orderList }))))

/-- CLEARPLAN: BUSY in RUNNING and STOPPING; otherwise every record leaves, Order List and Result Queue are emptied, the run is
EMPTY, the owner stays. A RESULT in transmission no longer has an entry. -/
def Obligations.ClearplanEmptiesThePlan : Prop :=
  ∀ (s : State) (r : Request) (rest : List Request), s.mayServe r rest .clearplan →
    (s.blk.rsq.run = .running ∨ s.blk.rsq.run = .stopping → exec .clearplan s = .next (s.answers r rest .busy []))
      ∧ (s.blk.rsq.run ≠ .running → s.blk.rsq.run ≠ .stopping →
          ∃ t, exec .clearplan s = .next t
            ∧ t = { s with blk := { s.blk with
                lki := { s.blk.lki.answered r rest .done [] with tx := t.blk.lki.tx }
                rsq := { s.blk.rsq with points := [], orderList := [], resultQueue := [], run := .empty } } }
            ∧ (∀ q w p b, s.blk.lki.tx = .sending (.result q w p b) →
                t.blk.lki.tx = .sending (.result q w p false))
            ∧ ((∀ q w p b, s.blk.lki.tx ≠ .sending (.result q w p b)) → t.blk.lki.tx = s.blk.lki.tx))

/-- The requests that read. READPT answers the 34 bytes of the plan view or the 37 of the result view, READSTAT its 32 bytes,
READPEERS a part of the Peer Table, READCOUNT the snapshots or, with take 1, the counters, each field by field as the spec lays it out,
a field wider than its place sent as its low-order bytes (the model's choice, log 18); they change nothing else but READSTAT's peak
fill and, with take 1, the counts. CLEARNOTE clears the flags of its mask. -/
def Obligations.ReadRequestsAnswer : Prop :=
  ∀ (s : State) (r : Request) (rest : List Request),
    (s.mayServe r rest .readpt →
        (1 < byteAt r.payload 3 → exec .readpt s = .next (s.answers r rest .badArg []))
          ∧ (byteAt r.payload 3 ≤ 1 → s.blk.rsq.find (nat16At r.payload 1) = none →
              exec .readpt s = .next (s.answers r rest .unknown []))
          ∧ ∀ p, s.blk.rsq.find (nat16At r.payload 1) = some p →
              (byteAt r.payload 3 = 0 →
                  p.planLayout.length = 34 ∧ exec .readpt s = .next (s.answers r rest .done p.planLayout))
                ∧ (byteAt r.payload 3 = 1 →
                    p.resultLayout.length = 37 ∧ exec .readpt s = .next (s.answers r rest .done p.resultLayout)))
      ∧ (s.mayTake r rest → r.code = some .readstat → r.lengthOk .readstat = true →
          s.blk.statLayout.length = 32
            ∧ exec .readstat s = .next { s with blk := { s.blk with
                lki := s.blk.lki.answered r rest .done s.blk.statLayout
                riu := { s.blk.riu with peakFill := s.blk.riu.rows.length } } })
      ∧ (s.mayTake r rest → r.code = some .readpeers → r.lengthOk .readpeers = true → s.blk.phase ≠ .resetting →
          (2 < byteAt r.payload 1 → exec .readpeers s = .next (s.answers r rest .badArg []))
            ∧ (byteAt r.payload 1 ≤ 2 →
                exec .readpeers s = .next (s.answers r rest .done (s.blk.bcu.peersLayout (byteAt r.payload 1)))))
      ∧ (s.mayServe r rest .readcount →
          (1 < byteAt r.payload 1 → exec .readcount s = .next (s.answers r rest .badArg []))
            ∧ (byteAt r.payload 1 = 0 →
                exec .readcount s = .next (s.answers r rest .done (s.blk.rpu.snapshots.toList.flatMap fun n => field 2 n)))
            ∧ (byteAt r.payload 1 = 1 →
                exec .readcount s = .next { s with blk := { s.blk with
                  lki := s.blk.lki.answered r rest .done (s.blk.rpu.counters.toList.flatMap fun n => field 2 n)
                  rpu := { s.blk.rpu with snapshots := s.blk.rpu.counters, counters := Vector.replicate 10 0 } } }))
      ∧ (s.mayServe r rest .clearnote →
          ∃ t, exec .clearnote s = .next t
            ∧ t = { s with blk := { s.blk with
                lki := s.blk.lki.answered r rest .done [], rpu := { s.blk.rpu with flags := t.blk.rpu.flags } } }
            ∧ ∀ g : Fin 6, t.blk.rpu.flags[g] = s.blk.rpu.flags[g] &&& ~~~(r.payload.getD (g + 1) 0))

/-- READROWS: its checks in order; taken while the pipeline waits, it applies the hold option to the bank read, fixes the start
position, keeps its reserved answer place and waits for the port. A capture in WAITBANK makes its choice again, the bank read being
kept out of it: with a hold released it may find the bank it waits for; with a hold set, and none available, it waits on. -/
def Obligations.ReadrowsStartsAReadout : Prop :=
  ∀ (s : State) (r : Request) (rest : List Request), s.mayServe r rest .readrows →
    let a := ReadrowsArgs.ofPayload r.payload
    let holds := fun k : BankId => s.blk.riu.tags[k].owner = some a.seq
      ∧ (s.blk.riu.tags[k].state = .filled ∨ s.blk.riu.tags[k].state = .measuring)
    let bad := 1 < a.hold ∨ (a.row ≠ 65535 ∧ (255 < a.row ∨ 255 < a.col)) ∨ a.count < 1 ∨ 32 < a.count
    (bad → exec .readrows s = .next (s.answers r rest .badArg []))
      ∧ (¬ bad → (∀ k, ¬ holds k) → exec .readrows s = .next (s.answers r rest .noFrame []))
      ∧ (¬ bad → (∃ k, holds k) → s.blk.riu.readout ≠ none → exec .readrows s = .next (s.answers r rest .busy []))
      ∧ ∀ k : BankId, ¬ bad → holds k → (∀ j, holds j → j = k ∨ s.blk.riu.behind k < s.blk.riu.behind j) →
          s.blk.riu.readout = none → s.blk.Waits → s.blk.LinesOk →
            ∃ t, exec .readrows s = .next t ∧ s.sameOutside t
              ∧ Blocks.Proceeds { s.blk with
                  lki := { s.blk.lki with recv := rest, reserved := s.blk.lki.reserved + 1 }
                  riu := { s.blk.riu with
                    tags := s.blk.riu.tags.set k (if a.hold = 1 then
                        { s.blk.riu.tags[k] with
                          hold := true, expiry := s.site.now + BitVec.ofNat 32 (s.site.cfg.image.holdS * 10000) }
                      else { s.blk.riu.tags[k] with hold := false })
                    readout := some
                      { sender := r.sender, seq := a.seq, bank := k, count := a.count
                        row := if a.row = 65535 then s.blk.riu.curRow else a.row
                        col := if a.row = 65535 then s.blk.riu.curCol else a.col } } } t.blk

/-- PARK and UNPARK: PARK is taken in READY with no run going and turns the lamp off; UNPARK is taken in PARKED, lights it at
its kept level and starts the warm-up; each is BUSY otherwise. -/
def Obligations.ParkAndUnpark : Prop :=
  ∀ (s : State) (r : Request) (rest : List Request),
    (s.mayServe r rest .park →
        (s.blk.phase = .ready → s.blk.rsq.run ≠ .running → s.blk.rsq.run ≠ .stopping →
            ∃ t, exec .park s = .next t ∧ lampOutput t.blk = none
              ∧ t = { s with blk := { s.blk with phase := .parked, lki := s.blk.lki.answered r rest .done [] } })
          ∧ (s.blk.phase = .parked ∨ s.blk.rsq.run = .running ∨ s.blk.rsq.run = .stopping →
              exec .park s = .next (s.answers r rest .busy [])))
      ∧ (s.mayServe r rest .unpark →
          (s.blk.phase = .parked →
              ∃ t, exec .unpark s = .next t ∧ lampOutput t.blk = some s.blk.riu.lamp
                ∧ t = { s with blk := { s.blk with
                    phase := .ready, lki := s.blk.lki.answered r rest .done []
                    riu := { s.blk.riu with warmup := some s.site.now } } })
            ∧ (s.blk.phase = .ready → exec .unpark s = .next (s.answers r rest .busy [])))

/-- RESETSTN: BUSY in PARKED. In READY with no run going the clearing follows at once: plan, banks, edge unit, notices and
counters cleared, the cursor at 0, the answer DONE placed, the phase READY again. With a run going the station becomes RESETTING,
keeps the reserved place and drains as under HALT IMMEDIATE, and the measurement in LAST is abandoned; the clearing follows at once
when nothing is left in flight. While the drain lasts the run state stays as it was (the model's reading, log 21). -/
def Obligations.ResetstnClearsTheStation : Prop :=
  ∀ (s : State) (r : Request) (rest : List Request), s.mayServe r rest .resetstn →
    (s.blk.phase = .parked → exec .resetstn s = .next (s.answers r rest .busy []))
      ∧ (s.blk.phase = .ready → s.blk.rsq.run ≠ .running → s.blk.rsq.run ≠ .stopping → s.blk.LinesOk →
          ∃ t, exec .resetstn s = .next t ∧ s.sameOutside t ∧ t.blk.phase = .ready ∧ t.blk.resetSender = none
            ∧ t.blk.lki.recv = rest ∧ t.blk.lki.reserved = s.blk.lki.reserved
            ∧ t.blk.lki.placed = s.blk.lki.placed ++ [{ dest := r.sender, payload := [16, 0] }]
            ∧ t.blk.rsq = Rsq.reset ∧ t.blk.egu = Egu.reset ∧ t.blk.ggu = none ∧ t.blk.rpu = Rpu.reset
            ∧ (∀ k : BankId, t.blk.riu.tags[k].state = .free ∧ t.blk.riu.tags[k].owner = none
                ∧ t.blk.riu.tags[k].serial = none ∧ t.blk.riu.tags[k].hold = false)
            ∧ t.blk.riu.curRow = 0 ∧ t.blk.riu.curCol = 0 ∧ t.blk.riu.rows = [] ∧ t.blk.riu.capture = none
            ∧ t.blk.riu.lamp = s.blk.riu.lamp ∧ t.blk.riu.counter = s.blk.riu.counter
            ∧ t.blk.bcu = s.blk.bcu ∧ t.blk.adu = s.blk.adu ∧ t.blk.ldu = s.blk.ldu)
      ∧ (s.blk.phase = .ready → s.blk.rsq.run = .running ∨ s.blk.rsq.run = .stopping → s.blk.rsq.draining = false →
          s.blk.LinesOk →
            ∃ t, exec .resetstn s = .next t ∧ s.sameOutside t
              ∧ Blocks.Drains { s.blk with
                  phase := .resetting, resetSender := some r.sender
                  lki := { s.blk.lki with recv := rest, reserved := s.blk.lki.reserved + 1 }
                  rsq := { s.blk.rsq with draining := true } } t.blk s.site)
      ∧ ∀ k, s.blk.phase = .ready → s.blk.rsq.run = .running → s.blk.rsq.draining = false → s.blk.LinesOk →
          s.blk.rsq.now = some { seq := k, cond := .indenting } →
          s.blk.ldu.phase = .loading ∨ s.blk.ldu.phase = .dwell → s.blk.ldu.cause = none → s.blk.adu.move = none →
          s.blk.ggu = none →
            ∃ t, exec .resetstn s = .next t ∧ s.sameOutside t
              ∧ t.blk = { s.blk with
                  phase := .resetting, resetSender := some r.sender, riu := s.blk.riu.grantPort
                  lki := { s.blk.lki with recv := rest, reserved := s.blk.lki.reserved + 1 }
                  rsq := { s.blk.rsq with draining := true }, ldu := t.blk.ldu }
              ∧ t.blk.ldu.phase = .unloading ∧ t.blk.ldu.abort = true ∧ t.blk.ldu.cause = some .halted

/-! ### The bench -/

/-- The eligibility tests: WAITMOVE by the four conditions of R52, WAITQUIET by those of R56. The own entry counts as in the queue
while it stands there in the waiting state of the claim (the model's choice, log 8). -/
def Obligations.EligibilityNeedsItsConditions : Prop :=
  ∀ (c : Bcu) (own : Station) (budget : Nat),
    let moving := fun p : Station => p ≠ own ∧ (c.entryState p = .heard .moving ∨ c.entryState p = .heard .settling)
    let ahead := fun front : List Station => own ∉ front ∧ ∃ rest, c.benchQueue = front ++ own :: rest
    (c.motionEligible own budget = true ↔
        c.entryState own = .heard .waitMove ∧ c.sensed .quiet = false
          ∧ ∃ front, ahead front ∧ (∀ p ∈ front, c.entryState p ≠ .heard .waitQuiet)
            ∧ front.countP (fun p => c.entryState p = .heard .waitMove)
                + (List.finRange 16).countP (fun p => decide (moving p)) < budget)
      ∧ (c.quietEligible own = true ↔
          c.entryState own = .heard .waitQuiet ∧ c.sensed .motion = false ∧ (∀ p, ¬ moving p)
            ∧ ∃ front, ahead front ∧ ∀ p ∈ front, c.entryState p ≠ .heard .waitMove)

/-- A change of a line's level is taken: the stuck watches follow the lines, the claims stay. The report changes the level from
outside alone, and the sensed level is that or the own driver (the model's reading, log 7). A QUIET that releases in WAITMOVE, and
a MOTION that releases in WAITQUIET, bring the eligibility test. The reports stay, but that the release of the last stuck line raises
LINESTUCK again under BOTH. -/
def Obligations.LineLevelsAreSensed : Prop :=
  ∀ (s : State) (line : BenchLine),
    let tested := (line = .quiet ∧ s.blk.bcu.own = .waitMove ∧ s.blk.bcu.quietIn = true)
      ∨ (line = .motion ∧ s.blk.bcu.own = .waitQuiet ∧ s.blk.bcu.motionIn = true)
    let granted := line = .motion ∧ s.blk.bcu.own = .holding ∧ s.blk.bcu.motionIn = true ∧ s.blk.bcu.sense = none
    let level := fun (on : Bool) (t : State) => { s.blk with
      rpu := t.blk.rpu
      bcu := { s.blk.bcu with
        quietIn := if line = .quiet then on else s.blk.bcu.quietIn
        motionIn := if line = .motion then on else s.blk.bcu.motionIn
        quietStuck := t.blk.bcu.quietStuck, motionStuck := t.blk.bcu.motionStuck } }
    let ends := (s.blk.bcu.watch line).stuck = true ∧ s.blk.bcu.drives line = false
      ∧ ∀ l, l ≠ line → (s.blk.bcu.watch l).stuck = false
    let reports := fun t : State => s.blk.LinesOk →
      (ends → t.blk.rpu = s.blk.rpu.conditionEnds s.site.cfg.bench .lineStuck) ∧ (¬ ends → t.blk.rpu = s.blk.rpu)
    (∃ t, exec (.lineAsserts line) s = .next t ∧ s.sameOutside t ∧ t.blk = level true t ∧ t.blk.LinesOk
        ∧ t.blk.bcu.sensed line = true ∧ (s.blk.LinesOk → t.blk.rpu = s.blk.rpu))
      ∧ (¬ tested → ¬ granted →
          ∃ t, exec (.lineReleases line) s = .next t ∧ s.sameOutside t ∧ t.blk = level false t ∧ t.blk.LinesOk
            ∧ t.blk.bcu.sensed line = s.blk.bcu.drives line ∧ reports t)
      ∧ (tested →
          ∃ t, exec (.lineReleases line) s = .next t ∧ s.sameOutside t ∧ s.blk.Tested t.blk s.site ∧ t.blk.LinesOk
            ∧ t.blk = { level false t with
                lki := { s.blk.lki with slot := t.blk.lki.slot }
                bcu := { (level false t).bcu with
                  own := t.blk.bcu.own, sense := t.blk.bcu.sense, refresh := t.blk.bcu.refresh } }
            ∧ t.blk.bcu.sensed line = false ∧ reports t)

/-- The sense delay of a mover ends: with QUIET asserted it withdraws, with QUIET released its motion is granted and every axis
of its move starts: homed when unknown, ARRIVED when it stands at its target, driven otherwise. -/
def Obligations.MotionSenseDecides : Prop :=
  ∀ (s : State) (st : Stamp), s.blk.bcu.own = .checking → s.blk.bcu.sense = some st → 2 ≤ (s.site.now - st).toNat →
    (s.blk.bcu.quietIn = true →
        ∃ t, exec .motionSenseExpiry s = .next t ∧ s.sameOutside t
          ∧ t.blk.bcu.own = .waitMove ∧ t.blk.bcu.drives .motion = false ∧ t.blk.bcu.sense = none
          ∧ t.blk.bcu.refresh = some s.site.now ∧ t.blk.bcu.claims = s.blk.bcu.claims
          ∧ t.blk.bcu.peers = s.blk.bcu.peers ∧ t.blk.bcu.benchQueue = s.blk.bcu.benchQueue
          ∧ t.blk.rpu.counters = (s.blk.rpu.counted s.site.cfg.bench.enables .withdrawals).counters
          ∧ t.blk.rpu.isSet .withdrawn = true
          ∧ (s.blk.LinesOk → s.blk.bcu.motionStuck.stuck = false →
              t.blk.rpu = (s.blk.rpu.counted s.site.cfg.bench.enables .withdrawals).raised s.site.cfg.bench.enables .withdrawn)
          ∧ t.blk = { s.blk with
              bcu := t.blk.bcu, rpu := t.blk.rpu
              lki := { s.blk.lki with
                slot := some
                  { announced := .waitMove, run := s.blk.rsq.run, work := s.blk.bcu.claims.head?.bind (·.work) } } })
      ∧ ∀ m : Move, s.blk.bcu.quietIn = false → s.blk.adu.move = some m → m.cond = .claiming → m.stopMark = false →
          s.blk.rsq.moveInFlight ≠ none →
            ∃ t, exec .motionSenseExpiry s = .next t ∧ s.sameOutside t ∧ t.blk.bcu.sense = none
              ∧ t.blk.ldu = s.blk.ldu ∧ t.blk.egu = s.blk.egu ∧ t.blk.rsq.moveInFlight = s.blk.rsq.moveInFlight
              ∧ (∀ l, m.goal l = none → t.blk.adu.axis l = s.blk.adu.axis l)
              ∧ ∀ l g, m.goal l = some g →
                  let a := s.blk.adu.axis l
                  (a.known = false →
                      t.blk.adu.axis l = { a with timer := some s.site.now, cmd := some .home }
                        ∧ t.blk.adu.move.bind (fun k => k.goal l) = some { g with progress := .homing }
                        ∧ t.blk.bcu.own = .moving)
                    ∧ (a.known = true → a.pos = g.target →
                        t.blk.adu.axis l = a
                          ∧ t.blk.adu.move.bind (fun k => k.goal l) = some { g with progress := .arrived })
                    ∧ (a.known = true → a.pos ≠ g.target →
                        t.blk.adu.axis l = { a with timer := some s.site.now, cmd := some (.drive g.target) }
                          ∧ t.blk.adu.move.bind (fun k => k.goal l) = some { g with progress := .driving }
                          ∧ t.blk.bcu.own = .moving)

/-- The quiet claim of a HOLDING station is granted when its sense delay ends with MOTION released, or when MOTION releases after
it; while MOTION stays asserted it holds. The grant announces QUIET; the LDU takes its tare and enters APPROACH, the RIU starts
its camera timer and the first step of its focus search. That the grant moves no actuator step, the first one coming when the step
timer first expires, is the model's choice between R94 and R96 (log 34). -/
def Obligations.QuietGrantReachesItsClaimant : Prop :=
  ∀ (s : State) (cmd : Instr), s.blk.bcu.own = .holding →
    let due := ∃ st, s.blk.bcu.sense = some st ∧ 2 ≤ (s.site.now - st).toNat
    (due → s.blk.bcu.motionIn = true →
        exec .quietSenseExpiry s = .next { s with blk := { s.blk with bcu := { s.blk.bcu with sense := none } } })
      ∧ ((cmd = .quietSenseExpiry ∧ due ∧ s.blk.bcu.motionIn = false)
            ∨ (cmd = .lineReleases .motion ∧ s.blk.bcu.sense = none ∧ s.blk.bcu.motionIn = true) →
          ∀ (k : Claim) (more : List Claim) (q : Seq), s.blk.bcu.claims = k :: more →
            (k.claimant = .ldu → s.blk.rsq.now = some { seq := q, cond := .indenting } → s.blk.ldu.phase = .waitGrant →
              s.blk.ldu.cause = none →
                ∃ t, exec cmd s = .next t ∧ s.sameOutside t ∧ t.blk.bcu.own = .quiet ∧ t.blk.bcu.drives .quiet = true
                  ∧ t.blk.bcu.claims = s.blk.bcu.claims ∧ t.blk.bcu.refresh = some s.site.now
                  ∧ t.blk.lki = { s.blk.lki with
                      slot := some { announced := .quiet, run := s.blk.rsq.run, work := k.work } }
                  ∧ t.blk.adu = s.blk.adu ∧ t.blk.egu = s.blk.egu ∧ t.blk.ggu = s.blk.ggu
                  ∧ t.blk.ldu = { s.blk.ldu with
                      tare := (2 * windowSum s.blk.ldu.window + 16) / 32, touching := false, runCount := 0
                      phase := .approach, step := some s.site.now })
              ∧ ∀ c : Capture, k.claimant = .riu → s.blk.rsq.now = some { seq := q, cond := .capturing } →
                  s.blk.riu.capture = some c → c.cond = .claiming → s.blk.adu.f.known = true →
                    ∃ t, exec cmd s = .next t ∧ s.sameOutside t ∧ t.blk.bcu.own = .quiet
                      ∧ t.blk.bcu.drives .quiet = true ∧ t.blk.ldu = s.blk.ldu ∧ t.blk.ggu = s.blk.ggu
                      ∧ t.blk.lki = { s.blk.lki with
                          slot := some { announced := .quiet, run := s.blk.rsq.run, work := k.work } }
                      ∧ t.blk.riu.capture = some { c with cond := .stepping }
                      ∧ t.blk.riu.camera = some s.site.now
                      ∧ t.blk.egu = { s.blk.egu with
                          search := some
                            (Search.start c.search s.blk.adu.memory[c.objective] s.site.cfg.image.focusStep) }
                      ∧ t.blk.adu.step.isSome = true)

/-- The settle timer of a finished move ends: MOTION is released, the claim leaves the Claim Queue, the move is reported, and only then
the next claim becomes active, the station is IDLE, or under a pending clash BLOCKED. A completed point move brings the point under
the indenter; a completed view move brings it ARRIVED, and into an empty NOW; a completed phase move brings the phase's next move; a
stopped move, or one ended by its fault, lets the drain end. That a claim may start on an own entry a former claim left is the model's
choice (log 35). -/
def Obligations.SettleEndsTheClaim : Prop :=
  ∀ (s : State) (st : Stamp) (m : Move) (k : Claim) (more : List Claim),
    let r := s.blk.rsq
    let cfg := s.site.cfg
    s.blk.bcu.own = .settling → s.blk.bcu.settle = some st → cfg.bench.settleMs * 10 ≤ (s.site.now - st).toNat →
    s.blk.adu.move = some m → m.cond = .ended ∨ m.cond = .endedStopped → m.claimless = false →
    s.blk.bcu.claims = k :: more → s.blk.bcu.ClaimsOk →
      ∃ t, exec .settleExpiry s = .next t ∧ s.sameOutside t ∧ t.blk.bcu.drives .motion = false
        ∧ t.blk.bcu.settle = none ∧ t.blk.bcu.peers = s.blk.bcu.peers ∧ t.blk.bcu.benchQueue = s.blk.bcu.benchQueue
        ∧ t.blk.bcu.ClaimsOk
        ∧ (s.blk.bcu.clash = true →
            t.blk.bcu.own = .blocked ∧ t.blk.bcu.clash = false ∧ t.blk.lki.slot = none ∧ t.blk.bcu.refresh = none)
        ∧ (s.blk.bcu.clash = false → t.blk.ServesHead s.site)
        ∧ (let left := fun new : List Claim => t.blk.bcu.claims ++ t.blk.bcu.waiting = more ++ s.blk.bcu.waiting ++ new
          let completed := m.cond = .ended ∧ m.faultMark = false ∧ r.draining = false
          let others := t.blk.adu = { s.blk.adu with move := none } ∧ t.blk.egu = s.blk.egu ∧ t.blk.ggu = s.blk.ggu
          (∀ q p, completed → m.kind = .point → m.seq = some q → r.next = some { seq := q, cond := .travelling } →
              r.find q = some p →
                let indents := { r with
                  moveInFlight := none, next := none, now := some { seq := q, cond := .indenting }
                  points := r.pointsWith q fun p => { p with progress := { p.progress with state := .indenting } } }
                left [{ claimant := .ldu, work := some q }] ∧ others
                  ∧ (t.blk.rsq = indents ∨ t.blk.rsq = indents.fillNext)
                  ∧ t.blk.ldu.phase = .waitGrant ∧ t.blk.ldu.silence = some s.site.now
                  ∧ t.blk.ldu.order = some { seq := q, force := p.plan.force, dwell := p.plan.dwell })
            ∧ (∀ q n, completed → m.kind = .view → m.seq = some q → r.next = some { seq := q, cond := .travelling } →
                r.now = some n → (n.cond = .capturing ∨ r.last ≠ none) → r.phase = some .view → r.group ≠ none →
                  left [] ∧ others ∧ t.blk.ldu = s.blk.ldu
                    ∧ t.blk.rsq = { r with
                        moveInFlight := none, stageAt := some q, next := some { seq := q, cond := .arrived } })
            ∧ (∀ q p, completed → m.kind = .view → m.seq = some q → r.next = some { seq := q, cond := .travelling } →
                r.find q = some p → r.now = none → r.phase = some .view → r.group ≠ none → s.blk.riu.warmup = none →
                s.blk.riu.tags[(0 : BankId)].state = .free →
                  left [{ claimant := .riu, work := some q }] ∧ others ∧ t.blk.ldu = s.blk.ldu
                    ∧ t.blk.riu.capture = some
                        { seq := q, objective := p.plan.objective, windowTop := p.progress.windowTop, edge := p.plan.edge
                          search := if r.focusFound then .short else .full, bank := some 0, cond := .claiming
                          abandon := false, stamp := 0, arriving := false }
                    ∧ t.blk.riu.tags = s.blk.riu.tags.set 0 { s.blk.riu.tags[(0 : BankId)] with
                        state := .target, owner := none, serial := none }
                    ∧ t.blk.rsq = Rsq.fillNext { r with
                        moveInFlight := none, stageAt := some q, next := none
                        now := some { seq := q, cond := .capturing }
                        points := r.pointsWith q fun p => { p with progress := { p.progress with state := .viewing } } })
            ∧ (∀ (g : Group) (phase : GroupPhase) (q : Seq) (rest : List Seq) (p : Point),
                completed → m.kind = .phase → r.group = some g → r.phase = some phase → r.next = none → r.now = none →
                r.groupList = q :: rest → r.find q = some p → (phase = .indent → p.progress.state = .waiting) →
                  let tool := cfg.tools[if phase = .indent then p.plan.indenter else p.plan.objective]
                  let x := p.plan.x + tool.offX + if phase = .indent then 0 else p.progress.shiftX
                  let y := p.plan.y + tool.offY + if phase = .indent then 0 else p.progress.shiftY
                  let move := if phase = .indent then Move.toPoint q x y
                    else Move.toView q x y s.blk.adu.memory[p.plan.objective]
                  cfg.stage.xMin ≤ x → x ≤ cfg.stage.xMax → cfg.stage.yMin ≤ y → y ≤ cfg.stage.yMax →
                  s.blk.adu.noMotion move = false →
                    left [{ claimant := .adu, work := some q }] ∧ t.blk.ldu = s.blk.ldu ∧ t.blk.egu = s.blk.egu
                      ∧ t.blk.ggu = s.blk.ggu ∧ t.blk.adu = { s.blk.adu with move := some move }
                      ∧ t.blk.rsq = { r with
                          moveInFlight := some (.point q), stageAt := none, groupList := rest
                          next := some { seq := q, cond := .travelling } })
            ∧ (m.cond = .endedStopped ∨ m.faultMark = true → r.draining = true → s.blk.ldu.phase = .rest →
                s.blk.riu.capture = none → s.blk.ggu = none →
                  left [] ∧ t.blk.adu = { s.blk.adu with move := none } ∧ t.blk.ldu = s.blk.ldu
                    ∧ s.blk.Stops t.blk { r with moveInFlight := none }))

/-- The refresh timer places the present STATE frame again. The silence limit makes a peer's entry LOST and takes it out of the
Bench Queue, and a WAITMOVE or WAITQUIET station is tested for eligibility. A stuck timer makes its line stuck. Each is counted,
and the first LOST entry and the first stuck line are raised. -/
def Obligations.BenchTimersExpire : Prop :=
  ∀ s : State,
    let on := s.site.cfg.bench.enables
    (∀ (st : Stamp) (a : Announce), s.blk.bcu.refresh = some st → 2500 ≤ (s.site.now - st).toNat →
        s.blk.bcu.own ≠ .idle → s.blk.bcu.own.announced = some a →
          exec .refreshExpiry s = .next { s with blk := { s.blk with
            lki := { s.blk.lki with
              slot := some { announced := a, run := s.blk.rsq.run, work := s.blk.bcu.claims.head?.bind (·.work) } }
            bcu := { s.blk.bcu with refresh := some s.site.now } } })
      ∧ (∀ (peer : Station) (a : Announce) (st : Stamp), s.blk.phase ≠ .unconfigured → peer ≠ s.site.station →
          s.blk.bcu.peers[peer].announced = .heard a → a ≠ .idle → s.blk.bcu.peers[peer].stamp = some st →
          s.site.cfg.bench.silenceMs * 10 ≤ (s.site.now - st).toNat →
            ∃ t, exec (.silenceExpiry peer) s = .next t ∧ s.sameOutside t
              ∧ t.blk.bcu.peers[peer] = { s.blk.bcu.peers[peer] with announced := .lost }
              ∧ (∀ p : Station, p ≠ peer → t.blk.bcu.peers[p] = s.blk.bcu.peers[p])
              ∧ t.blk.bcu.benchQueue = (s.blk.bcu.benchQueue.filter fun p => p != peer)
              ∧ t.blk.bcu.peerLost = true ∧ t.blk.rpu.counters = (s.blk.rpu.counted on .peersLost).counters
              ∧ (s.blk.bcu.peerLost = false → t.blk.rpu.isSet .peerLost = true)
              ∧ (s.blk.LinesOk → t.blk.rpu = if s.blk.bcu.peerLost then s.blk.rpu.counted on .peersLost
                  else (s.blk.rpu.counted on .peersLost).raised on .peerLost)
              ∧ t.blk = { s.blk with
                  bcu := t.blk.bcu, rpu := t.blk.rpu, lki := { s.blk.lki with slot := t.blk.lki.slot } }
              ∧ t.blk.bcu.claims = s.blk.bcu.claims ∧ s.blk.Tested t.blk s.site)
      ∧ ∀ (line : BenchLine) (st : Stamp), (s.blk.bcu.watch line).timer = some st →
          s.site.cfg.bench.stuckS * 10000 ≤ (s.site.now - st).toNat →
            ∃ t, exec (.stuckExpiry line) s = .next t ∧ s.sameOutside t
              ∧ t.blk.bcu.watch line = { timer := none, stuck := true }
              ∧ (∀ l, l ≠ line → t.blk.bcu.watch l = s.blk.bcu.watch l)
              ∧ t.blk.bcu.lineStuck = true
              ∧ t.blk = { s.blk with
                  rpu := if s.blk.bcu.lineStuck then s.blk.rpu.counted on .stuckEvents
                    else (s.blk.rpu.counted on .stuckEvents).raised on .lineStuck
                  bcu := { s.blk.bcu with
                    quietStuck := t.blk.bcu.quietStuck, motionStuck := t.blk.bcu.motionStuck } }

/-! ### The axes -/

/-- A move that put no claim is reported in a separate event: one that stood at its target completes, and the point of a point
move enters NOW; one ended by the limit check ends by its fault, and the drain, with nothing else in flight, stops the run. That the
report of the other kind changes nothing is the model's choice (log 4). -/
def Obligations.ClaimlessMovesAreReported : Prop :=
  ∀ (s : State) (m : Move), s.blk.adu.move = some m → m.claimless = true →
    (∀ (q : Seq) (p : Point), m.faultMark = false → m.cond = .ended → m.kind = .point → m.seq = some q →
        s.blk.rsq.next = some { seq := q, cond := .travelling } → s.blk.rsq.find q = some p → p.plan.seq = q →
        s.blk.rsq.draining = false → s.blk.bcu.ClaimsOk →
          ∃ t, exec .noMotionReport s = .next t ∧ s.sameOutside t ∧ t.blk.adu = { s.blk.adu with move := none }
            ∧ t.blk.rsq.moveInFlight = none ∧ t.blk.rsq.now = some { seq := q, cond := .indenting }
            ∧ t.blk.rsq.stateOf q = some .indenting ∧ t.blk.ldu.phase = .waitGrant
            ∧ t.blk.ldu.order = some { seq := q, force := p.plan.force, dwell := p.plan.dwell }
            ∧ { claimant := .ldu, work := some q } ∈ t.blk.bcu.claims ++ t.blk.bcu.waiting)
      ∧ (m.faultMark = true → s.blk.rsq.draining = true → s.blk.ldu.phase = .rest → s.blk.riu.capture = none →
          s.blk.ggu = none → s.blk.phase ≠ .resetting →
            ∃ t, exec .moveFaultEndReport s = .next t ∧ s.sameOutside t ∧ t.blk.adu = { s.blk.adu with move := none }
              ∧ t.blk.ldu = s.blk.ldu ∧ t.blk.egu = s.blk.egu ∧ t.blk.bcu.claims = s.blk.bcu.claims
              ∧ t.blk.rsq = { s.blk.rsq with
                  moveInFlight := none, groupList := [], next := none, now := none, last := none, group := none
                  phase := none, draining := false, run := if s.blk.rsq.hasWork then .halted else .finished
                  orderList := (((s.blk.rsq.group.map (·.order)).getD []).filter fun q =>
                    s.blk.rsq.stateOf q == some .waiting || s.blk.rsq.stateOf q == some .indented)
                      ++ s.blk.rsq.orderList })
      ∧ (m.faultMark = true → exec .noMotionReport s = .next s)
      ∧ (m.faultMark = false → exec .moveFaultEndReport s = .next s)

/-- Index pulses and the turret. The index starts in the event in which the focus stands at 0. INDEXING with a counted position, a
pulse brings the next one in the direction of travel; one that agrees with its mark arrives at the target, or at once when the
move is stopping, else restarts the gap timer. Homing, the first marked pulse gives position 0. A pulse that disagrees, the ninth
unmarked one and an expired gap timer make the turret UNKNOWN, raise TURRETFAULT and end the move by its fault. A pulse while the
turret is not driven makes it UNKNOWN and raises TURRETFAULT, whether a move is in flight or not. That a motion ended by a fault
leaves its record ENDED is the model's choice (log 38);
so is that the group and its phase stand until the collection (log 43). -/
def Obligations.IndexPulsesCountTheTurret : Prop :=
  ∀ (s : State) (mark : Bool),
    let now := s.site.now
    let pulsed := { s.blk.adu with indexStamp := now, indexHome := mark }
    let kept := fun t : State => (∀ l, t.blk.adu.axis l = s.blk.adu.axis l) ∧ t.blk.adu.memory = s.blk.adu.memory
      ∧ t.blk.adu.indexStamp = now ∧ t.blk.adu.indexHome = mark ∧ t.blk.ldu = s.blk.ldu ∧ t.blk.egu = s.blk.egu
    (s.blk.adu.turret = .unknown ∨ (∃ p, s.blk.adu.turret = .at p) →
        (s.blk.phase = .resetting → nothingInFlight s.blk = false) →
          ∃ t, exec (.indexPulse mark) s = .next t ∧ s.sameOutside t ∧ s.blk.LosesTurret t.blk s.site pulsed)
      ∧ ∀ (m : Move) (g : TurretGoal), s.blk.rsq.moveInFlight ≠ none → s.blk.adu.move = some m → m.turret = some g →
          (∀ cmd : Instr, m.cond = .driving → g.progress = .driving →
              s.blk.adu.turret = .unknown ∨ (∃ p, s.blk.adu.turret = .at p) →
              (cmd = .axisArrived .focus ∧ m.f = some { target := 0, progress := .driving })
                  ∨ (cmd = .axisHome .focus ∧ m.f = some { target := 0, progress := .homing }) →
                ∃ t, exec cmd s = .next t ∧ s.sameOutside t ∧ s.blk.adu.IndexStarts t.blk.adu now g)
            ∧ (∀ st, m.cond = .claiming → g.progress = .driving → m.stopMark = false → s.blk.bcu.own = .checking →
                s.blk.bcu.sense = some st → 2 ≤ (now - st).toNat → s.blk.bcu.quietIn = false →
                s.blk.adu.turret = .unknown ∨ (∃ p, s.blk.adu.turret = .at p) →
                m.f.map (·.target) = some 0 → s.blk.adu.f.known = true → s.blk.adu.f.pos = 0 →
                  ∃ t, exec .motionSenseExpiry s = .next t ∧ s.sameOutside t ∧ s.blk.adu.IndexStarts t.blk.adu now g)
            ∧ (∀ (c : TurretPos) (d : Direction), s.blk.adu.turret = .indexing (some c) d → m.cond = .driving →
                g.progress = .driving ∨ g.progress = .stopping →
                  let next : TurretPos := if d = .forward then c + 1 else c - 1
                  ∃ t, exec (.indexPulse mark) s = .next t ∧ s.sameOutside t
                    ∧ (mark = decide (next = 0) → next = g.target ∨ g.progress = .stopping →
                        kept t ∧ t.blk.adu.turret = .at next ∧ t.blk.adu.gap = none
                          ∧ ∃ cond, s.blk.MotionFollows t.blk s.site m
                              { m with turret := some { g with progress := .arrived }, cond := cond })
                    ∧ (mark = decide (next = 0) → next ≠ g.target → g.progress = .driving →
                        t = { s with blk := { s.blk with
                          adu := { pulsed with turret := .indexing (some next) d, gap := some now } } })
                    ∧ (mark ≠ decide (next = 0) → s.blk.TurretFaults t.blk s.site pulsed m g))
            ∧ (∀ d : Direction, s.blk.adu.turret = .indexing none d → m.cond = .driving →
                g.progress = .homing ∨ g.progress = .stopping →
                  ∃ t, exec (.indexPulse mark) s = .next t ∧ s.sameOutside t
                    ∧ (mark = false → s.blk.adu.homingCount < 8 →
                        t = { s with blk := { s.blk with
                          adu := { pulsed with
                            turret := .indexing none d, gap := some now
                            homingCount := s.blk.adu.homingCount + 1 } } })
                    ∧ (mark = false → 8 ≤ s.blk.adu.homingCount → s.blk.TurretFaults t.blk s.site pulsed m g)
                    ∧ (mark = true → g.target = 0 ∨ g.progress = .stopping →
                        kept t ∧ t.blk.adu.turret = .at 0 ∧ t.blk.adu.gap = none
                          ∧ ∃ cond, s.blk.MotionFollows t.blk s.site m
                              { m with turret := some { g with progress := .arrived }, cond := cond })
                    ∧ (mark = true → g.target ≠ 0 → g.progress = .homing →
                        t = { s with blk := { s.blk with
                          adu := { pulsed with
                            turret := .indexing (some 0) (if g.target.val ≤ 3 then .forward else .reverse)
                            gap := some now
                            move := some { m with turret := some { g with progress := .driving } } } } }))
            ∧ ∀ (c : Option TurretPos) (d : Direction) (st : Stamp), s.blk.adu.turret = .indexing c d →
                s.blk.adu.gap = some st → 15000 ≤ (now - st).toNat → m.cond = .driving →
                  ∃ t, exec .gapTimerExpiry s = .next t ∧ s.sameOutside t
                    ∧ s.blk.TurretFaults t.blk s.site s.blk.adu m g

/-- The answers of a stage or focus driver, with a move in flight: an axis that was driven stands at its target, also when its
arrival crosses a stop command; a stopping one stands where it reports when it is known; a homing one stands at its reference and
is driven on, or is ARRIVED there when its target is 0 (for a stage axis the model's reading, log 33), or is STOPPED there when a
stop command was crossed (log 12). The motion ends with its last axis; that a record whose fault mark is set and whose stop mark
is clear then becomes ENDED is the model's choice (log 38). Without a move or step that waits for it an answer changes nothing. A
stopped report outside the axis's range, which no driver gives, is taken as any other, with a free value for its position (log
23). A focus step reaches its height and the capture waits for a frame, or with its abandon mark set is abandoned; a step that
needs no command is done in its own event. -/
def Obligations.AxisAnswersAreTaken : Prop :=
  ∀ (s : State) (axis : Axis) (l : LinearAxis), linearAxis axis = some l →
    (∀ (m : Move) (g : AxisGoal), s.blk.rsq.moveInFlight ≠ none → s.blk.adu.move = some m → m.cond = .driving →
        m.goal l = some g →
          let a := s.blk.adu.axis l
          let takes := fun (t : State) (a' : AxisState) (p : AxisProgress) =>
            t.blk.adu.axis l = a' ∧ (∀ k, k ≠ l → t.blk.adu.axis k = s.blk.adu.axis k)
              ∧ t.blk.adu.memory = s.blk.adu.memory ∧ t.blk.adu.step = s.blk.adu.step ∧ t.blk.ldu = s.blk.ldu
              ∧ t.blk.egu = s.blk.egu
              ∧ ∃ k, k.goal l = some { g with progress := p } ∧ (∀ j, j ≠ l → k.goal j = m.goal j)
                  ∧ (m.turret = none → k.turret = none) ∧ k.faultMark = m.faultMark ∧ s.blk.MotionFollows t.blk s.site m k
          (g.progress = .driving ∨ (g.progress = .stopping ∧ a.known = true) →
              ∃ t, exec (.axisArrived axis) s = .next t ∧ s.sameOutside t
                ∧ takes t { a with pos := g.target, timer := none } .arrived)
            ∧ (∀ pos, g.progress = .stopping →
                ∃ t v, exec (.axisStopped axis pos) s = .next t ∧ s.sameOutside { t with free := s.free }
                  ∧ (Axis.inRange axis pos = true → v = pos ∧ t.free = s.free)
                  ∧ takes t { a with pos := if a.known then v else a.pos, timer := none } .stopped)
            ∧ (g.progress = .homing →
                ∃ t, exec (.axisHome axis) s = .next t ∧ s.sameOutside t
                  ∧ (g.target ≠ 0 →
                      takes t { a with
                        pos := 0, known := true, timer := some s.site.now, cmd := some (.drive g.target) } .driving)
                  ∧ (g.target = 0 → takes t { a with pos := 0, known := true, timer := none } .arrived))
            ∧ (g.progress = .stopping → a.known = false →
                ∃ t, exec (.axisHome axis) s = .next t ∧ s.sameOutside t
                  ∧ takes t { a with pos := 0, known := true, timer := none } .stopped))
      ∧ (s.blk.adu.move = none → s.blk.adu.step = none →
          exec (.axisArrived axis) s = .next s ∧ exec (.axisHome axis) s = .next s
            ∧ ∀ pos, exec (.axisStopped axis pos) s
                = .next { s with free := if Axis.inRange axis pos then s.free else s.free + 1 })
      ∧ (∀ (h : Int) (c : Capture) (q : Seq), l = .focus → s.blk.LinesOk → s.blk.adu.move = none →
          s.blk.rsq.now = some { seq := q, cond := .capturing } → s.blk.riu.capture = some c → c.cond = .stepping →
          c.abandon = false →
            (s.blk.adu.step = some { target := h, noop := false } →
                ∃ t, exec (.axisArrived axis) s = .next t ∧ s.sameOutside t
                  ∧ Blocks.FlowsTo { s.blk with
                      adu := { s.blk.adu with f := { s.blk.adu.f with pos := h, timer := none }, step := none }
                      riu := { s.blk.riu with capture := some { c with cond := .awaitFrame } } } t.blk)
              ∧ (s.blk.adu.step = some { target := h, noop := true } →
                  ∃ t, exec .focusStepNoopDone s = .next t ∧ s.sameOutside t
                    ∧ Blocks.FlowsTo { s.blk with
                        adu := { s.blk.adu with step := none }
                        riu := { s.blk.riu with capture := some { c with cond := .awaitFrame } } } t.blk))
      ∧ ∀ (h : Int) (c : Capture) (q : Seq), l = .focus → s.blk.adu.move = none → s.blk.rsq.moveInFlight = none →
          s.blk.rsq.draining = true → s.blk.ldu.phase = .rest → s.blk.bcu.ClaimsOf .riu → s.blk.bcu.own = .quiet →
          s.blk.rsq.now = some { seq := q, cond := .capturing } → s.blk.riu.capture = some c → c.seq = q →
          c.cond = .stepping → c.abandon = true →
            (s.blk.adu.step = some { target := h, noop := false } →
                ∃ t, exec (.axisArrived axis) s = .next t ∧ s.sameOutside t
                  ∧ Blocks.AbandonsCapture { s.blk with
                      adu := { s.blk.adu with f := { s.blk.adu.f with pos := h, timer := none }, step := none } } t.blk q c)
              ∧ (s.blk.adu.step = some { target := h, noop := true } →
                  ∃ t, exec .focusStepNoopDone s = .next t ∧ s.sameOutside t
                    ∧ Blocks.AbandonsCapture { s.blk with adu := { s.blk.adu with step := none } } t.blk q c)

/-- A driver's fault. Outside any move and step the axis only becomes unknown (the turret UNKNOWN) and raises its flag. In a move, a
fault or an expired axis timer of an axis that has an answer to give makes it unknown, keeps its counter, raises its flag, marks it
FAULTED and sets the move's fault mark; the other axes are stopped; the sequencer fails the point the move served, and the drain
starts. A turret fault while INDEXING does so too. A focus step that fails, or is ordered while the focus is unknown, ends its
capture and fails the point in NOW. That a motion ended by a fault leaves its record ENDED is the model's choice (log 38);
so is that the group and its phase stand until the collection (log 43). -/
def Obligations.AxisFaultsAreTaken : Prop :=
  ∀ (s : State) (l : LinearAxis),
    let axis : Axis := match l with
      | .stageX => .stageX
      | .stageY => .stageY
      | .focus => .focus
    let flag : Notice := if l = .focus then .focusFault else .stageFault
    let limit : Nat := if l = .focus then 20000 else 50000
    let a := s.blk.adu.axis l
    let expired := ∃ st, a.timer = some st ∧ limit ≤ (s.site.now - st).toNat
    (s.blk.adu.move = none → s.blk.adu.step = none →
        ∃ t, exec (.axisDriverFault axis) s = .next t ∧ t.blk.rpu = s.blk.rpu.raised s.site.cfg.bench.enables flag
          ∧ t.blk.adu.axis l = { a with known := false, timer := none }
          ∧ (∀ k, k ≠ l → t.blk.adu.axis k = s.blk.adu.axis k) ∧ t.blk.adu.turret = s.blk.adu.turret
          ∧ t = { s with blk := { s.blk with adu := t.blk.adu, rpu := t.blk.rpu } })
      ∧ (s.blk.adu.turret = .unknown ∨ (∃ p, s.blk.adu.turret = .at p) →
          (s.blk.phase = .resetting → nothingInFlight s.blk = false) →
            ∃ t, exec (.axisDriverFault .turret) s = .next t ∧ s.sameOutside t ∧ s.blk.LosesTurret t.blk s.site s.blk.adu)
      ∧ (∀ (m : Move) (g : TurretGoal) (c : Option TurretPos) (d : Direction), s.blk.rsq.moveInFlight ≠ none →
          s.blk.adu.move = some m → m.cond = .driving → m.turret = some g → s.blk.adu.turret = .indexing c d →
            ∃ t, exec (.axisDriverFault .turret) s = .next t ∧ s.sameOutside t
              ∧ s.blk.TurretFaults t.blk s.site s.blk.adu m g)
      ∧ (∀ (cmd : Instr) (m : Move) (g : AxisGoal),
          cmd = .axisDriverFault axis ∨ (cmd = .axisTimerExpiry l ∧ expired) →
          s.blk.rsq.moveInFlight ≠ none → s.blk.adu.move = some m → m.cond = .driving → m.goal l = some g →
          g.progress = .homing ∨ g.progress = .driving ∨ g.progress = .stopping →
            let m' := m.setGoal l { g with progress := .faulted }
            let lost := s.blk.adu.setAxis l { a with known := false, timer := none }
            ∃ t, exec cmd s = .next t ∧ s.sameOutside t ∧ t.blk.rpu.isSet flag = true
              ∧ t.blk.adu.axis l = { a with known := false, timer := none }
              ∧ (t.blk.adu.move.bind fun k => k.goal l) = some { g with progress := .faulted }
              ∧ Blocks.TakesMoveFault { s.blk with adu := { lost with move := some m' } } t.blk s.site m')
      ∧ ∀ (cmd : Instr) (c : Capture) (q : Seq) (k : BankId),
          let r := s.blk.riu
          (s.blk.adu.step.map (·.noop) = some false ∧ s.blk.bcu.own = .quiet ∧ l = .focus
              ∧ (cmd = .axisDriverFault .focus ∨ (cmd = .axisTimerExpiry .focus ∧ expired)))
            ∨ (s.blk.adu.step = none ∧ s.blk.adu.f.known = false ∧ s.blk.bcu.own = .holding ∧ c.cond = .claiming
              ∧ cmd = .quietSenseExpiry ∧ s.blk.bcu.motionIn = false
              ∧ ∃ st, s.blk.bcu.sense = some st ∧ 2 ≤ (s.site.now - st).toNat) →
          s.blk.adu.move = none → s.blk.rsq.moveInFlight = none → s.blk.ldu.phase = .rest → s.blk.bcu.ClaimsOf .riu →
          s.blk.rsq.now = some { seq := q, cond := .capturing } → r.capture = some c → c.seq = q → c.bank = some k →
          r.tags[k].state = .target → s.blk.rsq.run = .running ∨ s.blk.rsq.run = .stopping →
          (s.blk.phase = .resetting → s.blk.rsq.draining = true) →
            ∃ t, exec cmd s = .next t ∧ s.sameOutside t ∧ s.blk.StepFails t.blk q k

/-! ### The load unit -/

/-- A sample joins the window and forms the force word, clamped, in every state. At rest, waiting for its grant and retracting
the word reaches the contact detector alone: a run of words beyond the threshold of the detector's state changes it when the
run reaches its count. A word beyond the clamp raises FORCESAT. Before configuration the detector stands still. -/
def Obligations.LoadSampleFormsTheForceWord : Prop :=
  ∀ (sample : BitVec 24) (s : State),
    let c := s.site.cfg.load
    let u := s.blk.ldu
    let l := u.sampled s.site.now c.scaleFactor sample
    let raw := forceOf l.window l.tare c.scaleFactor
    ∃ t, exec (.loadSample sample) s = .next t ∧ s.sameOutside t
      ∧ t.blk.ldu.window = u.window.drop 1 ++ [sample] ∧ t.blk.ldu.word = max (-32767) (min 32767 raw)
      ∧ (s.blk.Waits → s.blk.LinesOk → u.phase = .rest ∨ u.phase = .waitGrant ∨ u.phase = .retract →
          let seen := if u.touching then l.word < c.releaseThreshold else c.contactThreshold ≤ l.word
          let need := if u.touching then c.releaseCount else c.declareCount
          Blocks.FlowsTo { s.blk with
              rpu := if -32767 ≤ raw ∧ raw ≤ 32767 then s.blk.rpu
                else s.blk.rpu.raised s.site.cfg.bench.enables .forceSat
              ldu := if s.blk.phase = .unconfigured then l else
                { l with
                  touching := if seen ∧ need ≤ u.runCount + 1 then !u.touching else u.touching
                  runCount := if seen ∧ u.runCount + 1 < need then u.runCount + 1 else 0 } } t.blk)

/-- What an unsaturated force word does in an indent. APPROACH: a word that does not declare contact only counts, the declaration
starts LOADING and the RAMPSLOW timer. In LOADING, DWELL and UNLOADING a word below the release threshold counts, and until the
count releases contact the phase acts on it as on any other. LOADING, at or below 110 percent: inside the band the dwell begins,
below the ramp target one step is taken, else the actuator holds. DWELL: the word is accumulated, regulated, and tested for an
excursion. UNLOADING: one step away above the falling target; the release of contact ends it, and so does the step to position 0,
which is the arrival at rest. -/
def Obligations.ForceWordsDriveTheIndent : Prop :=
  ∀ (sample : BitVec 24) (s : State) (q : Seq) (goal dwell : Nat),
    let c := s.site.cfg.load
    let now := s.site.now
    let l := s.blk.ldu.sampled now c.scaleFactor sample
    let raw := forceOf l.window l.tare c.scaleFactor
    let half : Nat := max 1 ((2 * (goal * c.band) + 1000) / 2000)
    let inside := (goal : Int) - half ≤ l.word ∧ l.word ≤ goal + half
    let deeper := if l.pos < c.travelLimit then l.pos + 1 else l.pos
    let ramped := c.rampRate * (now - l.rampStamp).toNat
    let on := s.site.cfg.bench.enables
    let run := if l.word < c.releaseThreshold then l.runCount + 1 else 0
    let held := l.touching = true ∧ (c.releaseThreshold ≤ l.word ∨ l.runCount + 1 < c.releaseCount)
    s.blk.rsq.now = some { seq := q, cond := .indenting } → s.blk.LinesOk →
    l.order = some { seq := q, force := goal, dwell := dwell } → -32767 ≤ raw → raw ≤ 32767 →
      ∃ t, exec (.loadSample sample) s = .next t ∧ s.sameOutside t
        ∧ (l.phase = .approach → l.touching = false → c.contactThreshold ≤ l.word → c.declareCount ≤ l.runCount + 1 →
            Blocks.FlowsTo { s.blk with ldu := { l with
              touching := true, runCount := 0, contact := some { pos := l.pos, force := l.word }, peak := l.word
              rampStamp := now, rampForce := l.word, phase := .loading, step := none
              rampSlow := some
                { start := now, limit := 2 * ((goal : Int) - l.word).toNat * 10000 / c.rampRate + 10000 } } } t.blk)
        ∧ (l.phase = .approach → l.touching = false → l.word < c.contactThreshold →
            Blocks.FlowsTo { s.blk with ldu := { l with runCount := 0 } } t.blk)
        ∧ (l.phase = .approach → l.touching = false → c.contactThreshold ≤ l.word → l.runCount + 1 < c.declareCount →
            Blocks.FlowsTo { s.blk with ldu := { l with runCount := l.runCount + 1 } } t.blk)
        ∧ (l.phase = .loading → held → l.word ≤ (goal * 11 / 10 : Nat) →
            let target := min (goal : Int) (l.rampForce + (ramped / 10000 : Nat))
            let kept := { l with runCount := run, peak := max l.peak l.word }
            (inside → Blocks.FlowsTo { s.blk with ldu := { kept with
                phase := .dwell, rampSlow := none, dwell := some now, sum := BitVec.ofInt 48 l.word, count := 1
                inBand := true } } t.blk)
              ∧ (¬ inside → l.word < target → Blocks.FlowsTo { s.blk with ldu := { kept with pos := deeper } } t.blk)
              ∧ (¬ inside → target ≤ l.word → Blocks.FlowsTo { s.blk with ldu := kept } t.blk))
        ∧ (l.phase = .dwell → held → l.word ≤ (goal * 11 / 10 : Nat) →
            let kept := { l with
              runCount := run, peak := max l.peak l.word, sum := l.sum + BitVec.ofInt 48 l.word, count := l.count + 1
              pos := if l.word < goal then deeper else if (goal : Int) + half < l.word then l.pos - 1 else l.pos }
            let left := min 255 (l.excursions + 1)
            (inside → Blocks.FlowsTo { s.blk with ldu := { kept with inBand := true } } t.blk)
              ∧ (¬ inside → l.inBand = false → Blocks.FlowsTo { s.blk with ldu := kept } t.blk)
              ∧ (¬ inside → l.inBand = true → left ≤ c.excursionLimit →
                  Blocks.FlowsTo { s.blk with
                    rpu := s.blk.rpu.counted on .excursions
                    ldu := { kept with inBand := false, excursions := left } } t.blk)
              ∧ (¬ inside → l.inBand = true → c.excursionLimit < left → l.cause = none →
                  Blocks.FlowsTo { s.blk with
                    rpu := (s.blk.rpu.counted on .excursions).raised on .loadFail
                    ldu := (Ldu.endsFor { kept with inBand := false, excursions := left } now .unstable).unloadsAt now
                      true } t.blk))
        ∧ (l.phase = .unloading → l.touching = true →
            let target := max 0 (l.rampForce - (ramped * (if l.abort then 4 else 1) / 10000 : Nat))
            let pos := if target < l.word then l.pos - 1 else l.pos
            (0 < pos → held → Blocks.FlowsTo { s.blk with ldu := { l with runCount := run, pos := pos } } t.blk)
              ∧ (0 < pos → ¬ held →
                  Blocks.FlowsTo { s.blk with
                    ldu := Ldu.retractsAt { l with touching := false, runCount := 0, pos := pos } now } t.blk)
              ∧ (0 < l.pos → pos = 0 →
                  t.blk.ldu.phase = .rest ∧ t.blk.ldu.order = none ∧ t.blk.ldu.pos = 0 ∧ t.blk.ldu.silence = none))

/-- The failures a force word brings, in their order: saturation, then overload, then the loss of contact. Under load the first
two start the abort unload, the third and a saturation in APPROACH retract; each is taken as the end cause with its indent
part, and raises LOADFAIL. -/
def Obligations.ForceFailuresEndTheIndent : Prop :=
  ∀ (sample : BitVec 24) (s : State) (q : Seq) (goal dwell : Nat),
    let c := s.site.cfg.load
    let now := s.site.now
    let l := s.blk.ldu.sampled now c.scaleFactor sample
    let raw := forceOf l.window l.tare c.scaleFactor
    let saturated := raw < -32767 ∨ 32767 < raw
    let on := s.site.cfg.bench.enables
    let fails := s.blk.rpu.raised on .loadFail
    let saturates := (s.blk.rpu.raised on .forceSat).raised on .loadFail
    let loaded := l.phase = .loading ∨ l.phase = .dwell
    s.blk.rsq.now = some { seq := q, cond := .indenting } → s.blk.LinesOk →
    l.order = some { seq := q, force := goal, dwell := dwell } → l.cause = none → 0 < l.pos →
      ∃ t, exec (.loadSample sample) s = .next t ∧ s.sameOutside t
        ∧ (loaded → saturated →
            Blocks.FlowsTo { s.blk with rpu := saturates, ldu := (l.endsFor now .forceSat).unloadsAt now true } t.blk)
        ∧ (l.phase = .approach → saturated →
            Blocks.FlowsTo { s.blk with rpu := saturates, ldu := (l.endsFor now .forceSat).retractsAt now } t.blk)
        ∧ (loaded → ¬ saturated → (goal * 11 / 10 : Nat) < l.word →
            Blocks.FlowsTo { s.blk with
              rpu := fails
              ldu := (Ldu.endsFor { l with peak := max l.peak l.word } now .overload).unloadsAt now true } t.blk)
        ∧ (loaded → ¬ saturated → l.word ≤ (goal * 11 / 10 : Nat) → l.touching = true → l.word < c.releaseThreshold →
            c.releaseCount ≤ l.runCount + 1 →
              Blocks.FlowsTo { s.blk with
                rpu := fails
                ldu := (Ldu.endsFor { l with touching := false, runCount := 0 } now .contactLost).retractsAt now } t.blk)

/-- The load unit's timers. The step timer steps on, fails at the travel limit, steps back. RAMPSLOW aborts, the end of the
dwell fills the indent part and unloads. A silent cell retracts, or raises LOADFAIL while it retracts; one silent before the grant ends
the indent where it stands, its claim cancelled. -/
def Obligations.LoadTimersExpire : Prop :=
  ∀ (s : State) (q : Seq),
    let c := s.site.cfg.load
    let now := s.site.now
    let l := s.blk.ldu
    let fails := s.blk.rpu.raised s.site.cfg.bench.enables .loadFail
    s.blk.rsq.now = some { seq := q, cond := .indenting } → s.blk.LinesOk →
      (∀ st, l.step = some st → 10000 / c.approachSpeed ≤ (now - st).toNat →
          ∃ t, exec .lduStepTimerExpiry s = .next t ∧ s.sameOutside t
            ∧ (l.phase = .approach → l.pos < c.travelLimit →
                Blocks.FlowsTo { s.blk with ldu := { l with pos := l.pos + 1, step := some now } } t.blk)
            ∧ (l.phase = .approach → c.travelLimit ≤ l.pos → 0 < l.pos → l.cause = none →
                Blocks.FlowsTo { s.blk with rpu := fails, ldu := (l.endsFor now .noContact).retractsAt now } t.blk)
            ∧ (l.phase = .retract → 1 < l.pos →
                Blocks.FlowsTo { s.blk with ldu := { l with pos := l.pos - 1, step := some now } } t.blk))
        ∧ (∀ r : RampTimer, l.phase = .loading → l.rampSlow = some r → r.limit ≤ (now - r.start).toNat → l.cause = none →
            exec .rampslowExpiry s
              = .next { s with blk := { s.blk with rpu := fails, ldu := (l.endsFor now .rampSlow).unloadsAt now true } })
        ∧ (∀ (st : Stamp) (o : IndentOrder), l.phase = .dwell → l.dwell = some st → l.order = some o →
            o.dwell * 1000 ≤ (now - st).toNat →
              exec .dwellExpiry s = .next { s with blk := { s.blk with
                ldu := Ldu.unloadsAt { l with dwellDone := true, part := l.partAt now } now false } })
        ∧ (∀ st k, l.silence = some st → 500 ≤ (now - st).toNat → l.phase = .waitGrant → l.order = some k → l.cause = none →
            s.blk.bcu.ClaimsOf .ldu → s.blk.bcu.own = .waitQuiet ∨ s.blk.bcu.own = .holding →
              ∃ t, exec .loadSilenceExpiry s = .next t ∧ s.sameOutside t ∧ t.blk.ldu.phase = .rest ∧ t.blk.ldu.order = none
                ∧ t.blk.ldu.silence = none ∧ (∀ k ∈ t.blk.bcu.claims ++ t.blk.bcu.waiting, k.claimant ≠ .ldu))
        ∧ ∀ st, l.silence = some st → 500 ≤ (now - st).toNat → 0 < l.pos →
            let restarted := { l with silence := some now }
            ∃ t, exec .loadSilenceExpiry s = .next t ∧ s.sameOutside t
              ∧ (l.phase = .approach ∨ l.phase = .loading ∨ l.phase = .dwell → l.cause = none →
                  Blocks.FlowsTo { s.blk with
                    rpu := fails, ldu := (restarted.endsFor now .cellSilent).retractsAt now } t.blk)
              ∧ (l.phase = .unloading → l.abort = true →
                  Blocks.FlowsTo { s.blk with ldu := restarted.retractsAt now } t.blk)
              ∧ (l.phase = .unloading → l.abort = false →
                  Blocks.FlowsTo { s.blk with rpu := fails, ldu := restarted.retractsAt now } t.blk)
              ∧ (l.phase = .retract →
                  Blocks.FlowsTo { s.blk with
                    rpu := fails
                    ldu := if l.dwellDone = false ∧ l.cause = none then restarted.endsFor now .cellSilent
                      else restarted } t.blk)

/-- The unit's return to rest ends the indent: by the last step of RETRACT, by the step of UNLOADING that reaches position 0, or
by the cell's silence before the grant, which cancels the claim and fails the point with CELLSILENT. In a drain with nothing else
in flight: the point is INDENTED after a full dwell, CANCELLED after a halt, FAILED for its reason otherwise, with the indent
part; the group is collected and the run stops. In the middle of the indent phase the point goes back to the group INDENTED, or is
FAILED, and the point move of the next one is ordered. At the end of the indent phase a success brings the phase move to the
objective, and the failure of the group's last point finishes the group. QUIET is released in every case. That every delivery
clears contact, accumulator, peak, excursions, cause and part is the model's reading (log 15). -/
def Obligations.IndentDeliversItsOutcome : Prop :=
  ∀ (s : State) (cmd : Instr) (l : Ldu) (q : Seq) (p : Point) (o : IndentOrder),
    let r := s.blk.rsq
    let c := s.site.cfg.load
    let now := s.site.now
    let u := s.blk.ldu
    let retracted := cmd = .lduStepTimerExpiry ∧ l = u ∧ u.phase = .retract ∧ u.pos ≤ 1 ∧ s.blk.bcu.HoldsQuiet .ldu
      ∧ ∃ st, u.step = some st ∧ 10000 / c.approachSpeed ≤ (now - st).toNat
    let unloaded := ∃ sample : BitVec 24,
      let w := u.sampled now c.scaleFactor sample
      let raw := forceOf w.window w.tare c.scaleFactor
      let target := max 0 (u.rampForce
        - (c.rampRate * (now - u.rampStamp).toNat * (if u.abort then 4 else 1) / 10000 : Nat))
      let light := w.word < c.releaseThreshold
      cmd = .loadSample sample ∧ u.phase = .unloading ∧ u.pos = 1 ∧ u.touching = true ∧ s.blk.bcu.HoldsQuiet .ldu
        ∧ -32767 ≤ raw ∧ raw ≤ 32767 ∧ target < w.word
        ∧ l = { w with
            touching := !(decide light && decide (c.releaseCount ≤ u.runCount + 1))
            runCount := if light ∧ u.runCount + 1 < c.releaseCount then u.runCount + 1 else 0 }
    let silent := cmd = .loadSilenceExpiry ∧ u.phase = .waitGrant ∧ u.cause = none ∧ l = u.endsFor now .cellSilent
      ∧ s.blk.bcu.ClaimsOf .ldu ∧ (s.blk.bcu.own = .waitQuiet ∨ s.blk.bcu.own = .holding)
      ∧ ∃ st, u.silence = some st ∧ 500 ≤ (now - st).toNat
    let released := fun t : State => s.sameOutside t ∧ t.blk.egu = s.blk.egu ∧ t.blk.riu = s.blk.riu.grantPort
      ∧ t.blk.bcu.drives .quiet = false ∧ t.blk.bcu.peers = s.blk.bcu.peers
      ∧ t.blk.bcu.benchQueue = s.blk.bcu.benchQueue
      ∧ t.blk.ldu = { l with
          phase := .rest, order := none, pos := 0, contact := none, sum := 0, count := 0, peak := 0, excursions := 0
          inBand := false, dwellDone := false, cause := none, part := none, step := none, rampSlow := none
          dwell := none, silence := none }
      ∧ (silent → t.blk.rpu.isSet .loadFail = true)
    retracted ∨ unloaded ∨ silent →
    l.order = some o → o.seq = q → r.now = some { seq := q, cond := .indenting } → r.find q = some p →
    r.moveInFlight = none →
      (r.draining = true → s.blk.riu.capture = none → s.blk.ggu = none → s.blk.phase ≠ .resetting →
          ∃ t, exec cmd s = .next t ∧ released t ∧ t.blk.adu = s.blk.adu
            ∧ t.blk.bcu.own = .idle ∧ t.blk.bcu.claims = []
            ∧ t.blk.lki = { s.blk.lki with slot := some { announced := .idle, run := r.run, work := none } }
            ∧ t.blk.rsq = { r with
                points := r.pointsWith q fun k => { k with
                  indent := l.part
                  progress := if l.cause = none then { k.progress with state := .indented }
                    else { k.progress with
                      state := if l.cause = some .halted then .cancelled else .failed, reason := l.cause } }
                orderList := ((r.group.map (·.order)).getD []).filter (fun m =>
                    t.blk.rsq.stateOf m == some .waiting || t.blk.rsq.stateOf m == some .indented) ++ r.orderList
                resultQueue := if l.cause = none then r.resultQueue else r.resultQueue ++ [q]
                groupList := [], next := none, now := none, last := none, group := none, phase := none
                draining := false, run := if t.blk.rsq.hasWork then .halted else .finished }
            ∧ (s.blk.rpu.Ok → l.cause ≠ none → l.cause ≠ some .halted →
                t.blk.rpu.counters[Counter.pointsFailed.index]
                  = min 65535 (s.blk.rpu.counters[Counter.pointsFailed.index] + 1)))
        ∧ (∀ (g : Group) (n : Seq) (k : Point), r.draining = false → l.cause ≠ some .halted → r.group = some g →
            r.phase = some .indent → r.next = some { seq := n, cond := .pending } → n ≠ q → r.find n = some k →
              let x := k.plan.x + s.site.cfg.tools[k.plan.indenter].offX
              let y := k.plan.y + s.site.cfg.tools[k.plan.indenter].offY
              let stage := s.site.cfg.stage
              stage.xMin ≤ x → x ≤ stage.xMax → stage.yMin ≤ y → y ≤ stage.yMax →
              s.blk.adu.noMotion (Move.toPoint n x y) = false →
                ∃ t, exec cmd s = .next t ∧ released t
                  ∧ t.blk.adu = { s.blk.adu with move := some (Move.toPoint n x y) }
                  ∧ t.blk.bcu.claims = [{ claimant := .adu, work := some n }]
                  ∧ (t.blk.bcu.own = .waitMove ∨ t.blk.bcu.own = .starting)
                  ∧ t.blk.rsq = { r with
                      points := r.pointsWith q fun k => { k with
                        indent := l.part
                        progress := if l.cause = none then { k.progress with state := .indented }
                          else { k.progress with state := .failed, reason := l.cause } }
                      groupList := r.groupList.filter (fun m => m != q) ++ if l.cause = none then [q] else []
                      resultQueue := if l.cause = none then r.resultQueue else r.resultQueue ++ [q]
                      last := if r.last.map (·.seq) = some q then none else r.last
                      next := some { seq := n, cond := .travelling }, now := none
                      moveInFlight := some (.point n), stageAt := none })
        ∧ (∀ (g : Group) (reason : Reason), r.draining = false → l.cause = some reason → reason ≠ .halted →
            r.group = some g → r.phase = some .indent → r.next = none → r.groupList = [] →
              ∃ t, exec cmd s = .next t ∧ released t
                ∧ Blocks.FinishesGroup { s.blk with
                    rpu := s.blk.rpu.counted s.site.cfg.bench.enables .pointsFailed
                    bcu := { s.blk.bcu with own := .idle, claims := [], waiting := [] }
                    rsq := { r with
                      points := r.pointsWith q fun k => { k with
                        indent := l.part, progress := { k.progress with state := .failed, reason := some reason } }
                      resultQueue := r.resultQueue ++ [q], now := none
                      last := if r.last.map (·.seq) = some q then none else r.last } } t.blk s.site)
        ∧ ∀ g : Group, r.draining = false → l.cause = none → r.group = some g → r.phase = some .indent → r.next = none →
            (∀ m ∈ r.groupList, r.stateOf m ≠ some .waiting) → s.blk.adu.turret ≠ .at g.objective →
              ∃ t, exec cmd s = .next t ∧ released t
                ∧ t.blk.adu = { s.blk.adu with move := some (Move.toTurret g.objective) }
                ∧ (t.blk.bcu.own = .waitMove ∨ t.blk.bcu.own = .starting)
                ∧ t.blk.rsq = { r with
                    points := r.pointsWith q fun k => { k with
                      indent := l.part, progress := { k.progress with state := .indented } }
                    groupList := r.groupList.filter (fun m => m != q) ++ [q]
                    last := if r.last.map (·.seq) = some q then none else r.last
                    now := none, phase := some .view, moveInFlight := some .phaseMove, stageAt := none }

/-! ### The image path -/

/-- A frame start: taken while the capture waits for one, which starts a frame of the kind the search decides, a final one on
empty tables; otherwise it only restarts the row count and the camera timer, and the frame in hand has passed. A row arrival is
numbered; a window row of the taken frame joins the Row Queue, every other row is discarded. -/
def Obligations.FramesStartAndRowsArrive : Prop :=
  ∀ s : State,
    let r := s.blk.riu
    let started := { r with rowCount := some 0, camera := r.camera.map fun _ => s.site.now }
    (∀ (c : Capture) (k : BankId), r.capture = some c → c.cond = .awaitFrame → c.bank = some k →
        let best := ∃ (d : Search) (i : Nat), s.blk.egu.search = some d ∧ d.decision = .best i
        let g := { s.blk.egu with
          history := [], prev := none, runPeak := 0, energy := 0
          cols := Vector.replicate 256 { run := 0, edge := none, qualified := false } }
        let taken := fun g : Egu => exec .frameStart s = .next { s with blk := { s.blk with
          egu := g
          riu := { started with
            capture := some { c with cond := .framing, stamp := s.site.now, arriving := true } } } }
        (best → taken { g with
            kind := some .final
            results := g.results.set k
              { rows := Vector.replicate 256 none, cols := Vector.replicate 256 none, peak := 0 } })
          ∧ (¬ best → taken { g with kind := some .search }))
      ∧ ((∀ c, r.capture = some c → c.cond ≠ .awaitFrame ∧ c.cond ≠ .framing) →
          exec .frameStart s = .next { s with blk := { s.blk with riu := started } })
      ∧ (∀ c, r.capture = some c → c.cond = .framing → (c.arriving = false ∨ c.windowTop + 256 ≤ r.rowCount.getD 0) →
          exec .frameStart s = .next { s with blk := { s.blk with
            riu := { started with capture := some { c with arriving := false } } } })
      ∧ ∀ pixels : Vector Byte 256,
          (r.rowCount = none → exec (.rowArrival pixels) s = .next s)
            ∧ ∀ n, r.rowCount = some n →
                let wanted := ∃ c, r.capture = some c ∧ c.cond = .framing ∧ c.arriving = true ∧ c.windowTop ≤ n
                  ∧ n < c.windowTop + 256
                (320 ≤ n → exec (.rowArrival pixels) s = .next s)
                  ∧ (n < 320 → ¬ wanted →
                      exec (.rowArrival pixels) s
                        = .next { s with blk := { s.blk with riu := { r with rowCount := some (n + 1) } } })
                  ∧ (n < 320 → wanted → r.rows.length < 4 → s.blk.Waits → s.blk.LinesOk →
                      ∃ t, exec (.rowArrival pixels) s = .next t ∧ s.sameOutside t
                        ∧ Blocks.FlowsTo { s.blk with riu := { r with
                            rowCount := some (n + 1), rows := r.rows ++ [{ number := n, pixels := pixels.toList }]
                            peakFill := max r.peakFill (r.rows.length + 1) } } t.blk)

/-- The dark runs of a row that are at least the minimum run long, and no others, are its qualified runs, in rising column;
their entry and exit crossings are interpolated between the two pixels that straddle the threshold, or lie on the window's
side. The Row Edge Table's entry holds their number, at most 15, with the outer crossings or those of the widest run. -/
def Obligations.QualifiedRunsAreTheDarkRuns : Prop :=
  ∀ (t minRun : Nat) (values : List Nat), values.length = 256 →
    let runs := qualifiedRuns t minRun values
    let at_ := fun i => values.getD i 0
    (∀ a b, (∃ r ∈ runs, r.first = a ∧ r.last = b) ↔ DarkRun t values a b ∧ minRun ≤ b - a + 1)
      ∧ runs.Pairwise (fun x y => x.last + 1 < y.first)
      ∧ (∀ r ∈ runs,
          (r.first = 0 → r.entry = 0) ∧ (r.last = 255 → r.exit = 4080)
            ∧ (0 < r.first → r.entry = 16 * (r.first - 1)
                + 16 * (at_ (r.first - 1) - t) / (at_ (r.first - 1) - at_ r.first))
            ∧ (r.last < 255 → r.exit = 16 * r.last + 16 * (t - at_ r.last) / (at_ (r.last + 1) - at_ r.last)))
      ∧ (∀ mode, runs = [] → rowEdgeOf mode runs = none)
      ∧ ∀ (first last : RowRun), runs.head? = some first → runs.getLast? = some last →
          rowEdgeOf .outer runs = some { runs := min 15 runs.length, left := first.entry, right := last.exit }
            ∧ ∃ w ∈ runs, (∀ x ∈ runs, x.last - x.first ≤ w.last - w.first)
                ∧ (∀ x ∈ runs, x.last - x.first = w.last - w.first → w.first ≤ x.first)
                ∧ rowEdgeOf .widest runs = some { runs := min 15 runs.length, left := w.entry, right := w.exit }

/-- The memory port's arbiter: who is granted a FREE port, and that a BUSY one stays. A row write of a frame that goes on: the row
leaves the queue, the port is free, and the edge unit takes the row: peak history, threshold, frame values, and the column runs
with their crossings. A search frame leaves every table alone; a final one writes only its bank's tables: of the Row Edge Table
only the row taken, in the Column Edge Table the first qualified run's start and each qualified run's end. A write whose capture
has ended only frees the port. -/
def Obligations.RowsAreWrittenAndSliced : Prop :=
  (∀ r : Riu, r.Arbitrates r.grantPort)
    ∧ ∀ s : State, s.blk.LinesOk →
    let r := s.blk.riu
    (r.port = .write false → s.blk.Waits →
        ∃ t, exec .rowWriteComplete s = .next t ∧ s.sameOutside t
          ∧ Blocks.FlowsTo { s.blk with riu := { r with port := .free } } t.blk)
      ∧ ∀ (c : Capture) (k : BankId) (row : QueuedRow) (rest : List QueuedRow),
          r.port = .write true → r.capture = some c → c.bank = some k → r.rows = row :: rest →
          row.number ≠ c.windowTop + 255 → s.blk.Waits →
            ∃ t, exec .rowWriteComplete s = .next t ∧ t.site = s.site ∧ t.held = s.held ∧ t.received = s.received
              ∧ t.pending = s.pending
              ∧ Blocks.FlowsTo { s.blk with riu := { r with rows := rest, port := .free }, egu := t.blk.egu } t.blk
              ∧ Egu.Slices s.blk.egu t.blk.egu s.site.cfg.image s.site.cfg.tools[c.objective] c k row

/-- The last row of a final frame ends the capture. The row is sliced, every open column run ends at the window edge, and the
frame peak is set. The lamp follows the frame peak. With light enough the bank is FILLED, the focus height is kept, and the point
is CAPTURED in NOW while LAST is held, or enters an empty LAST and is MEASURING. Too dark at the highest lamp level it is FAILED
with LOWLIGHT; too dark with the lamp level changed it is captured again while its recaptures last. QUIET is released. -/
def Obligations.FinalFrameEndsTheCapture : Prop :=
  ∀ (s : State) (q : Seq) (c : Capture) (k : BankId) (p : Point) (row : QueuedRow) (rest : List QueuedRow) (d : Search)
      (i : Nat),
    s.blk.ViewsAlone q c k p → s.blk.bcu.HoldsQuiet .riu →
    s.blk.riu.port = .write true → s.blk.riu.rows = row :: rest → row.number = c.windowTop + 255 →
    s.blk.egu.kind = some .final → s.blk.egu.search = some d → d.decision = .best i →
      let img := s.site.cfg.image
      let r := s.blk.riu
      let peak := max s.blk.egu.runPeak (peakOf (row.values s.site.cfg.tools[c.objective].revCol))
      let lamp := if peak < img.lightLow then min 63 (r.lamp + img.lightStep)
        else if img.lightHigh < peak then r.lamp - img.lightStep else r.lamp
      let height := (d.heights.getD i 0).toNat
      let kept : CaptureValues := { bank := k, stamp := c.stamp, level := r.lamp, height := height }
      ∃ t, exec .rowWriteComplete s = .next t ∧ t.site = s.site ∧ t.held = s.held ∧ t.received = s.received
        ∧ t.pending = s.pending ∧ t.blk.bcu.peers = s.blk.bcu.peers ∧ t.blk.bcu.benchQueue = s.blk.bcu.benchQueue
        ∧ t.blk.lki = { s.blk.lki with slot := t.blk.lki.slot } ∧ t.blk.ldu = s.blk.ldu ∧ t.blk.phase = s.blk.phase
        ∧ t.blk.egu.search = none ∧ t.blk.egu.results[k].peak = peak
        ∧ (∃ g, s.blk.egu.Slices g img s.site.cfg.tools[c.objective] c k row
            ∧ g.Closes t.blk.egu s.site.cfg.tools[c.objective].revRow k)
        ∧ (img.lightLow ≤ peak ∨ (r.lamp = 63 ∧ ∃ l, s.blk.rsq.last = some l ∧ l.seq ≠ q) →
            t.blk.bcu.own = .idle ∧ t.blk.bcu.claims = [] ∧ t.blk.bcu.drives .quiet = false
              ∧ t.blk.lki.slot = some { announced := .idle, run := s.blk.rsq.run, work := none })
        ∧ (img.lightLow ≤ peak →
            t.blk.adu = { s.blk.adu with memory := s.blk.adu.memory.set c.objective (height : Int) }
              ∧ (∀ l, s.blk.rsq.last = some l → l.seq ≠ q →
                  t.blk.riu = r.filledBy k q lamp .filled ∧ t.blk.ggu = s.blk.ggu
                    ∧ t.blk.rsq = { s.blk.rsq with
                        focusFound := true, now := some { seq := q, cond := .captured kept } })
              ∧ (s.blk.rsq.last = none →
                  t.blk.riu = r.filledBy k q lamp .measuring
                    ∧ (∃ m, t.blk.ggu = some m ∧ m.seq = q ∧ m.bank = k ∧ m.low = p.plan.low ∧ m.high = p.plan.high
                        ∧ m.x = p.plan.x ∧ m.y = p.plan.y ∧ m.windowTop = p.progress.windowTop ∧ m.values = kept
                        ∧ m.tool = s.site.cfg.tools[p.plan.indenter].kind
                        ∧ m.scale = s.site.cfg.tools[p.plan.objective].scale
                        ∧ m.revRow = s.site.cfg.tools[p.plan.objective].revRow
                        ∧ (∀ part, p.indent = some part → m.force = part.mean)
                        ∧ m.asymmetry = img.asymmetry ∧ m.spacing = img.spacing)
                    ∧ t.blk.rsq = { s.blk.rsq with
                        focusFound := true, now := none, last := some { seq := q, values := kept }
                        points := s.blk.rsq.pointsWith q fun p => { p with
                          progress := { p.progress with state := .measuring } } }))
        ∧ (peak < img.lightLow → r.lamp = 63 → (∃ l, s.blk.rsq.last = some l ∧ l.seq ≠ q) →
            t.blk.rsq = s.blk.rsq.closesNow q .failed .lowLight ∧ t.blk.riu = r.filledBy k q 63 .filled
              ∧ t.blk.adu = s.blk.adu ∧ t.blk.ggu = s.blk.ggu ∧ t.blk.rpu.isSet .lowLight = true
              ∧ (s.blk.rpu.Ok → t.blk.rpu.counters[Counter.pointsFailed.index]
                  = min 65535 (s.blk.rpu.counters[Counter.pointsFailed.index] + 1)))
        ∧ (peak < img.lightLow → lamp ≠ r.lamp → (∃ l, s.blk.rsq.last = some l ∧ l.seq ≠ q) →
            t.blk.rpu.isSet .lowLight = true
              ∧ Blocks.FailsCapture { s.blk with
                  egu := t.blk.egu, riu := r.filledBy k q lamp .filled
                  bcu := { s.blk.bcu with own := .idle, claims := [] } } t.blk s.site q p .lowLight)

/-- What ends a capture without a frame. A silent camera, 500 ms without a frame start, fails the point with CAMSILENT and drops
its focus step. A window row that finds 4 rows queued, or a frame start before the last window row, loses the frame: ROWLOST,
and the point is captured again, or fails when its 3 row recaptures are spent. The bank is FREE and QUIET is released. -/
def Obligations.FailedCapturesEnd : Prop :=
  ∀ (s : State) (cmd : Instr) (q : Seq) (c : Capture) (k : BankId) (p : Point),
    s.blk.ViewsAlone q c k p → s.blk.bcu.HoldsQuiet .riu → (∃ l, s.blk.rsq.last = some l ∧ l.seq ≠ q) →
      let r := s.blk.riu
      let silent := cmd = .cameraTimerExpiry ∧ ∃ st, r.camera = some st ∧ 5000 ≤ (s.site.now - st).toNat
      let dropped := ∃ (n : Nat) (pixels : Vector Byte 256), cmd = .rowArrival pixels
        ∧ r.rowCount = some n ∧ n < 320 ∧ c.cond = .framing ∧ c.arriving = true ∧ c.windowTop ≤ n ∧ n < c.windowTop + 256
        ∧ 4 ≤ r.rows.length
      let cut := cmd = .frameStart ∧ c.cond = .framing ∧ c.arriving = true ∧ r.rowCount.getD 0 < c.windowTop + 256
      let rowCount := if cmd = .frameStart then some 0 else r.rowCount.map (· + 1)
      let counted := fun (t : State) (n : Counter) =>
        t.blk.rpu.counters[n.index] = min 65535 (s.blk.rpu.counters[n.index] + 1)
      silent ∨ dropped ∨ cut →
        ∃ t, exec cmd s = .next t ∧ s.sameOutside t ∧ t.blk.ldu = s.blk.ldu ∧ t.blk.ggu = s.blk.ggu
          ∧ t.blk.egu = { s.blk.egu with search := none }
          ∧ t.blk.bcu.peers = s.blk.bcu.peers ∧ t.blk.bcu.benchQueue = s.blk.bcu.benchQueue
          ∧ (silent →
              t.blk.rsq = s.blk.rsq.closesNow q .failed .camSilent ∧ t.blk.riu = r.gaveUp k
                ∧ t.blk.bcu.own = .idle ∧ t.blk.bcu.claims = [] ∧ t.blk.rpu.isSet .camSilent = true
                ∧ (s.blk.rpu.Ok → counted t .pointsFailed)
                ∧ (s.blk.adu.step = none → t.blk.adu = s.blk.adu)
                ∧ (s.blk.adu.step ≠ none →
                    t.blk.adu = { s.blk.adu with
                      step := none, f := { s.blk.adu.f with known := false, timer := none } }))
          ∧ (dropped ∨ cut →
              t.blk.adu = s.blk.adu ∧ t.blk.rpu.isSet .rowLost = true
                ∧ Blocks.FailsCapture { s.blk with
                    egu := t.blk.egu, riu := Riu.gaveUp { r with rowCount := rowCount } k
                    bcu := { s.blk.bcu with own := .idle, claims := [] }
                    rpu := if cmd = .frameStart then s.blk.rpu
                      else s.blk.rpu.counted s.site.cfg.bench.enables .rowsLost } t.blk s.site q p .rowLost)

/-- The focus search: its heights about the Focus Memory height, its decision for the lowest of the best heights or FOCUSPOOR, and
what the completion of a search frame brings when its last row has been written. The open column runs end, no table changes, the
frame is scored. The step to the next height, or to the best one, is ordered. FOCUSPOOR ends the capture, clears focus-found, and
captures the point again or fails it. With the abandon mark set the capture is abandoned, and so returns a FOCUSPOOR in a drain
while recaptures are left. -/
def Obligations.FocusSearchRunsItsHeights : Prop :=
  (∀ (centre : Int) (step : Nat),
      let h := fun (n : Int) => max 0 (min 20000 (centre + n * step))
      (Search.start .full centre step).heights = [h (-4), h (-3), h (-2), h (-1), h 0, h 1, h 2, h 3, h 4]
        ∧ (Search.start .short centre step).heights = [h (-1), h 0, h 1]
        ∧ ∀ kind, (Search.start kind centre step).index = 0 ∧ (Search.start kind centre step).scores = []
            ∧ (Search.start kind centre step).decision = .undecided)
    ∧ (∀ (d : Search) (energy minEnergy : Nat),
        let scores := d.scores ++ [energy]
        (d.index + 1 < d.heights.length →
            d.record energy minEnergy = { d with scores := scores, index := d.index + 1 })
          ∧ (d.heights.length ≤ d.index + 1 →
              ((∀ v ∈ scores, v < minEnergy) →
                  d.record energy minEnergy = { d with scores := scores, decision := .focusPoor })
                ∧ ∀ i, i < scores.length → minEnergy ≤ scores.getD i 0 → (∀ v ∈ scores, v ≤ scores.getD i 0) →
                    (∀ j, j < i → scores.getD j 0 < scores.getD i 0) →
                      d.record energy minEnergy = { d with scores := scores, decision := .best i }))
    ∧ ∀ (s : State) (q : Seq) (c : Capture) (k : BankId) (p : Point) (row : QueuedRow) (rest : List QueuedRow) (d : Search),
        let r := s.blk.riu
        let tool := s.site.cfg.tools[c.objective]
        let values := row.values tool.revCol
        let energy := min 4294967295
          (s.blk.egu.energy + ((values.zip values.tail).map fun v => max v.1 v.2 - min v.1 v.2).sum)
        let d' := d.record energy s.site.cfg.image.minEnergy
        let best := match d'.decision with
          | .best i => i
          | .undecided | .focusPoor => d.index + 1
        let height := max 0 (min 20000 (d.heights.getD best 0))
        s.blk.rsq.now = some { seq := q, cond := .capturing } → s.blk.rsq.find q = some p → r.port = .write true →
        r.capture = some c → c.seq = q → c.bank = some k → r.rows = row :: rest → row.number = c.windowTop + 255 →
        s.blk.egu.kind = some .search → s.blk.egu.search = some d → d.decision = .undecided →
          ∃ t, exec .rowWriteComplete s = .next t ∧ t.site = s.site ∧ t.held = s.held ∧ t.received = s.received
            ∧ t.pending = s.pending
            ∧ (s.blk.phase ≠ .resetting →
                ∃ g, s.blk.egu.Slices g s.site.cfg.image tool c k row ∧ g.Closes t.blk.egu tool.revRow k)
            ∧ (c.abandon = false → d'.decision ≠ .focusPoor → s.blk.adu.f.known = true →
                t.blk.lki = s.blk.lki ∧ t.blk.ldu = s.blk.ldu ∧ t.blk.ggu = s.blk.ggu
                  ∧ t.blk.bcu.own = s.blk.bcu.own ∧ t.blk.bcu.claims = s.blk.bcu.claims
                  ∧ t.blk.riu.capture = some { c with cond := .stepping } ∧ t.blk.riu.tags = r.tags
                  ∧ t.blk.egu.search = some d'
                  ∧ (s.blk.adu.f.pos = height →
                      t.blk.adu = { s.blk.adu with step := some { target := height, noop := true } })
                  ∧ (s.blk.adu.f.pos ≠ height →
                      t.blk.adu = { s.blk.adu with
                        step := some { target := height, noop := false }
                        f := { s.blk.adu.f with timer := some s.site.now, cmd := some (.drive height) } }))
            ∧ (d'.decision = .focusPoor → s.blk.ViewsAlone q c k p → s.blk.bcu.HoldsQuiet .riu →
                (∃ l, s.blk.rsq.last = some l ∧ l.seq ≠ q) →
                  t.blk.egu.search = none ∧ t.blk.adu = s.blk.adu
                    ∧ Blocks.FailsCapture { s.blk with
                        egu := t.blk.egu, riu := Riu.gaveUp { r with rows := rest, port := .free } k
                        rsq := { s.blk.rsq with focusFound := false }
                        bcu := { s.blk.bcu with own := .idle, claims := [] } } t.blk s.site q p .focusPoor)
            ∧ (s.blk.rsq.draining = true → s.blk.rsq.moveInFlight = none → s.blk.ldu.phase = .rest →
                s.blk.bcu.ClaimsOf .riu → s.blk.bcu.own = .quiet →
                  (c.abandon = true → d'.decision ≠ .focusPoor → s.blk.AbandonsCapture t.blk q c)
                    ∧ (d'.decision = .focusPoor → p.progress.recaptures < 2 →
                        Blocks.AbandonsCapture { s.blk with rsq := { s.blk.rsq with focusFound := false } } t.blk q c))

/-- A readout completes: its pixels go into its reserved answer, the cursor stands after them, the port is free. A hold that has
run out is released and reported. After either a capture in WAITBANK makes its choice again. The warm-up ends, and a capture that
waited for the lamp makes its choice: it takes a bank and claims QUIET, or waits for one. That a completion without a readout and
an expiry without a hold change nothing is the model's choice (log 4), and so is that an expiry before its time does (log 5). -/
def Obligations.ReadoutAndImageTimersEnd : Prop :=
  ∀ s : State, s.blk.LinesOk →
    let r := s.blk.riu
    (∀ o : Readout, r.port = .read → r.readout = some o → o.row < 256 → o.col < 256 → s.blk.Waits →
        let first := o.row * 256 + o.col
        let pixels := (List.range o.count).map fun i =>
          s.mem.read ((if o.bank = 1 then 65536 else 0) + (first + i) % 65536)
        let after := (first + o.count) % 65536
        ∃ t, exec .readoutComplete s = .next t ∧ s.sameOutside t
          ∧ Blocks.Proceeds { s.blk with
              riu := { r with readout := none, port := .free, curRow := after / 256, curCol := after % 256 }
              lki := { s.blk.lki with
                reserved := s.blk.lki.reserved - 1
                placed := s.blk.lki.placed ++ [{ dest := o.sender
                                                 payload := [9, 0, BitVec.ofNat 8 (o.seq / 256), BitVec.ofNat 8 o.seq,
                                                   BitVec.ofNat 8 o.row, BitVec.ofNat 8 o.col, BitVec.ofNat 8 o.count]
                                                   ++ pixels }] } } t.blk)
      ∧ ((∀ o, r.port = .read → r.readout ≠ some o) → exec .readoutComplete s = .next s)
      ∧ (∀ k : BankId,
          (r.tags[k].hold = true → r.tags[k].expiry = s.site.now → s.blk.Waits →
              ∃ t, exec (.holdExpiry k) s = .next t ∧ s.sameOutside t
                ∧ Blocks.Proceeds { s.blk with
                    rpu := s.blk.rpu.raised s.site.cfg.bench.enables .holdExpired
                    riu := { r with tags := r.tags.set k { r.tags[k] with hold := false } } } t.blk)
            ∧ (r.tags[k].hold = false → exec (.holdExpiry k) s = .next s)
            ∧ (0 < (r.tags[k].expiry - s.site.now).toNat →
                (r.tags[k].expiry - s.site.now).toNat ≤ s.site.cfg.image.holdS * 10000 →
                  exec (.holdExpiry k) s = .next s))
      ∧ ∀ st, r.warmup = some st → 20000 ≤ (s.site.now - st).toNat →
          (r.capture.map (·.cond) ≠ some .waitLamp → s.blk.Waits →
              ∃ t, exec .warmupExpiry s = .next t ∧ s.sameOutside t
                ∧ Blocks.FlowsTo { s.blk with riu := { r with warmup := none } } t.blk)
            ∧ ∀ (c : Capture) (q : Seq), r.capture = some c → c.cond = .waitLamp →
                s.blk.rsq.now = some { seq := q, cond := .capturing } →
                  ∃ t, exec .warmupExpiry s = .next t ∧ s.sameOutside t
                    ∧ Blocks.SeeksBank { s.blk with riu := { r with warmup := none } } t.blk c

/-! ### The gauge -/

/-- A measurement completes: the record is emptied, LAST is empty, the bank FILLED again. When it is the group's last point, and
DONE or failed, the group finishes. While NOW captures another point, one in WAITBANK makes its choice again, and: DONE keeps the
result with the point; NOIMPRESSION, TOOSMALL and a final clip fail it; each is queued as a RESULT and counted. A clip that can be
re-centred fails the point when its budget is spent or the new view position lies outside the stage; in a drain it returns to the
group with its re-centring and no count; otherwise it is recaptured: counted, NEXT flushed to the head of the Group List, the
point in NEXT, ARRIVED when the stage stands there and the shifts are as they were. -/
def Obligations.MeasurementCompletes : Prop :=
  ∀ (s : State) (m : Measurement) (l : LastSlot) (q : Seq),
    let r := s.blk.rsq
    let o := measure m s.blk.egu.results[m.bank] r.points
    let empty := { s.blk with
      ggu := none
      riu := { s.blk.riu with tags := s.blk.riu.tags.set m.bank { s.blk.riu.tags[m.bank] with state := .filled } } }
    let next := r.next.bind fun n => if n.seq = m.seq then none else some n
    let closed := { r with
      last := none, next := next, groupList := r.groupList.filter fun k => k != m.seq
      resultQueue := r.resultQueue ++ [m.seq] }
    let count := s.blk.rpu.counted s.site.cfg.bench.enables
    let done := fun res => { empty with
      rpu := count .pointsDone
      rsq := { closed with
        points := r.pointsWith m.seq fun p => { p with
          result := some res, progress := { p.progress with state := .done, reason := none } } } }
    let failed := fun reason : Reason => { empty with
      rpu := count .pointsFailed
      rsq := { closed with
        points := r.pointsWith m.seq fun p => { p with
          progress := { p.progress with state := .failed, reason := some reason } } } }
    let final := fun reason => (o = .noImpression ∧ reason = .noImpression) ∨ (o = .tooSmall ∧ reason = .tooSmall)
      ∨ (o = .clipped none ∧ reason = .clipped)
    s.blk.ggu = some m → r.last = some l → l.seq = m.seq → s.blk.riu.tags[m.bank].state = .measuring → s.blk.LinesOk →
      (r.now = none → r.next = none → r.groupList = [] → r.moveInFlight = none → r.draining = false → r.group ≠ none →
        r.phase = some .view → s.blk.riu.capture = none →
          let finishes := fun b : Blocks =>
            ∃ t, exec .gguCompletion s = .next t ∧ s.sameOutside t ∧ b.FinishesGroup t.blk s.site
              ∧ t.blk.riu = b.riu.grantPort ∧ t.blk.ggu = none ∧ t.blk.ldu = b.ldu ∧ t.blk.egu = b.egu ∧ t.blk.phase = b.phase
          (∀ res, o = .done res → finishes (done res)) ∧ ∀ reason, final reason → finishes (failed reason))
      ∧ (r.now = some { seq := q, cond := .capturing } → q ≠ m.seq → s.blk.riu.capture.isSome = true →
        (∀ res, o = .done res →
            ∃ t, exec .gguCompletion s = .next t ∧ s.sameOutside t ∧ (done res).Proceeds t.blk)
          ∧ (∀ reason, final reason →
              ∃ t, exec .gguCompletion s = .next t ∧ s.sameOutside t ∧ (failed reason).Proceeds t.blk)
          ∧ ∀ (rc : Recentring) (p : Point), o = .clipped (some rc) → r.find m.seq = some p →
              let tool := s.site.cfg.tools[p.plan.objective]
              let x := p.plan.x + tool.offX + p.progress.shiftX + rc.dx.getD 0
              let y := p.plan.y + tool.offY + p.progress.shiftY + rc.dy.getD 0
              let stage := s.site.cfg.stage
              let within_ := stage.xMin ≤ x ∧ x ≤ stage.xMax ∧ stage.yMin ≤ y ∧ y ≤ stage.yMax
              let moved := rc.dx.getD 0 ≠ 0 ∨ rc.dy.getD 0 ≠ 0
              let recentred := fun p : Point => { p with
                progress := { p.progress with
                  state := .indented, windowTop := rc.top.getD p.progress.windowTop
                  shiftX := p.progress.shiftX + rc.dx.getD 0, shiftY := p.progress.shiftY + rc.dy.getD 0 } }
              ∃ t, exec .gguCompletion s = .next t ∧ s.sameOutside t
                ∧ (2 ≤ p.progress.recaptures ∨ ¬ within_ → (failed .clipped).Proceeds t.blk)
                ∧ (p.progress.recaptures < 2 → within_ → r.draining = true → r.group ≠ none →
                    Blocks.Proceeds { empty with
                      rsq := { r with
                        last := none, next := next, points := r.pointsWith m.seq recentred
                        groupList := ((r.group.map (·.order)).getD []).filter fun k =>
                          k = m.seq ∨ k ∈ r.groupList } } t.blk)
                ∧ (p.progress.recaptures < 2 → within_ → r.draining = false →
                    Blocks.Proceeds { empty with
                      rpu := count .recaptures
                      rsq := { r with
                        last := none
                        groupList := (next.map (·.seq)).toList ++ r.groupList.filter fun k => k != m.seq
                        next := some
                          { seq := m.seq, cond := if r.stageAt = some m.seq ∧ ¬ moved then .arrived else .pending }
                        points := r.pointsWith m.seq fun p =>
                          let p' := recentred p
                          { p' with progress := { p'.progress with recaptures := p.progress.recaptures + 1 } } } } t.blk))

/-- The verdict by the limits, in their order; and the outcome of every measurement, by its impression block, which every table with a
present row has: no block NOIMPRESSION, a clip CLIPPED, final when it is through and with its re-centring otherwise, a diagonal below
20 pixels TOOSMALL, and DONE with the diagonals, offsets, hardness, flags and verdict of the block. The hardness of a zero diagonal is
a free value of the model (log 17): nothing is said of it. -/
def Obligations.ResultFollowsTheBlock : Prop :=
  (∀ (low high : Option Nat) (h : Nat),
      (low = none → high = none → verdictOf low high h = .noLimit)
        ∧ (∀ a, low = some a → h < a → verdictOf low high h = .low)
        ∧ (∀ a, high = some a → a < h → (∀ b, low = some b → b ≤ h) → verdictOf low high h = .high)
        ∧ (low ≠ none ∨ high ≠ none → (∀ a, low = some a → a ≤ h) → (∀ a, high = some a → h ≤ a) →
            verdictOf low high h = .pass))
    ∧ (∀ res : FrameResults, (∃ i : Fin 256, res.rows[i].isSome = true) →
        ∃ a b left right wide tall, res.IsImpression a b ∧ res.Extent a b left right wide tall)
    ∧ ∀ (m : Measurement) (res : FrameResults) (points : List Point),
        ((∀ i : Fin 256, res.rows[i] = none) → measure m res points = .noImpression)
          ∧ ∀ (a b : Fin 256) (left right wide tall : Nat), res.IsImpression a b → res.Extent a b left right wide tall →
              let clipped := a.val = 0 ∨ b.val = 255 ∨ left = 0 ∨ right = 4080
              let through := (a.val = 0 ∧ b.val = 255) ∨ (left = 0 ∧ right = 4080)
              (through → measure m res points = .clipped none)
                ∧ (clipped → ¬ through →
                    ∃ rc : Recentring, measure m res points = .clipped (some rc) ∧ rc.For m a b left right)
                ∧ (¬ clipped → wide < 320 ∨ tall < 320 → measure m res points = .tooSmall)
                ∧ (¬ clipped → 320 ≤ wide → 320 ≤ tall →
                    ∃ r, measure m res points = .done r
                      ∧ r.dH = (2 * (wide * m.scale) + 16) / 32 ∧ r.dV = (2 * (tall * m.scale) + 16) / 32
                      ∧ r.offX = (2 * (((left : Int) + right - 4080) * m.scale) + 3200) / 6400
                      ∧ r.offY = (2 * (((a.val : Int) + b.val - 255) * m.scale) + 200) / 400
                      ∧ r.stamp = m.values.stamp ∧ r.level = m.values.level ∧ r.height = m.values.height
                      ∧ (r.split = true ↔
                          res.blockRows a b (fun _ => true) < res.blockRows a b (fun e => decide (1 < e.runs)) * 4)
                      ∧ (let d := if m.tool = .knoop then r.dH else (2 * (r.dH + r.dV) + 2) / 4
                        let factor : Int := if m.tool = .knoop then 14510000000 else 1891000000
                        r.verdict = verdictOf m.low m.high r.hardness
                          ∧ (0 < d → (r.hardness : Int)
                              = max 0 (min 65535 ((2 * (factor * m.force) + d * d) / (2 * (d * d)))))
                          ∧ (r.asym = true ↔
                              m.tool ≠ .knoop ∧ m.asymmetry * d < (max r.dH r.dV - min r.dH r.dV) * 1000)
                          ∧ (r.spacing = true ↔ ∃ p ∈ points, p.plan.seq ≠ m.seq ∧ p.progress.state = .done
                              ∧ 1000000 * ((p.plan.x - m.x) ^ 2 + (p.plan.y - m.y) ^ 2)
                                < ((m.spacing * d : Nat) : Int) ^ 2)))
end

