-- ==== Sys2Proof/Laws/State.lean ====
section
/-! SUPPORT. One lemma per field per update of the state, so that no proof unfolds a record update. -/

namespace Sys2Proof.Machine

/-! ### `Blocks.withRsq` -/

@[simp] theorem Blocks.withRsq_phase (b : Blocks) (v : Rsq) : (b.withRsq v).phase = b.phase := rfl
@[simp] theorem Blocks.withRsq_resetSender (b : Blocks) (v : Rsq) : (b.withRsq v).resetSender = b.resetSender := rfl
@[simp] theorem Blocks.withRsq_lki (b : Blocks) (v : Rsq) : (b.withRsq v).lki = b.lki := rfl
@[simp] theorem Blocks.withRsq_bcu (b : Blocks) (v : Rsq) : (b.withRsq v).bcu = b.bcu := rfl
@[simp] theorem Blocks.withRsq_rsq (b : Blocks) (v : Rsq) : (b.withRsq v).rsq = v := rfl
@[simp] theorem Blocks.withRsq_adu (b : Blocks) (v : Rsq) : (b.withRsq v).adu = b.adu := rfl
@[simp] theorem Blocks.withRsq_ldu (b : Blocks) (v : Rsq) : (b.withRsq v).ldu = b.ldu := rfl
@[simp] theorem Blocks.withRsq_riu (b : Blocks) (v : Rsq) : (b.withRsq v).riu = b.riu := rfl
@[simp] theorem Blocks.withRsq_egu (b : Blocks) (v : Rsq) : (b.withRsq v).egu = b.egu := rfl
@[simp] theorem Blocks.withRsq_ggu (b : Blocks) (v : Rsq) : (b.withRsq v).ggu = b.ggu := rfl
@[simp] theorem Blocks.withRsq_rpu (b : Blocks) (v : Rsq) : (b.withRsq v).rpu = b.rpu := rfl

/-! ### `Blocks.withAdu` -/

@[simp] theorem Blocks.withAdu_phase (b : Blocks) (v : Adu) : (b.withAdu v).phase = b.phase := rfl
@[simp] theorem Blocks.withAdu_resetSender (b : Blocks) (v : Adu) : (b.withAdu v).resetSender = b.resetSender := rfl
@[simp] theorem Blocks.withAdu_lki (b : Blocks) (v : Adu) : (b.withAdu v).lki = b.lki := rfl
@[simp] theorem Blocks.withAdu_bcu (b : Blocks) (v : Adu) : (b.withAdu v).bcu = b.bcu := rfl
@[simp] theorem Blocks.withAdu_rsq (b : Blocks) (v : Adu) : (b.withAdu v).rsq = b.rsq := rfl
@[simp] theorem Blocks.withAdu_adu (b : Blocks) (v : Adu) : (b.withAdu v).adu = v := rfl
@[simp] theorem Blocks.withAdu_ldu (b : Blocks) (v : Adu) : (b.withAdu v).ldu = b.ldu := rfl
@[simp] theorem Blocks.withAdu_riu (b : Blocks) (v : Adu) : (b.withAdu v).riu = b.riu := rfl
@[simp] theorem Blocks.withAdu_egu (b : Blocks) (v : Adu) : (b.withAdu v).egu = b.egu := rfl
@[simp] theorem Blocks.withAdu_ggu (b : Blocks) (v : Adu) : (b.withAdu v).ggu = b.ggu := rfl
@[simp] theorem Blocks.withAdu_rpu (b : Blocks) (v : Adu) : (b.withAdu v).rpu = b.rpu := rfl

/-! ### `Blocks.withLdu` -/

@[simp] theorem Blocks.withLdu_phase (b : Blocks) (v : Ldu) : (b.withLdu v).phase = b.phase := rfl
@[simp] theorem Blocks.withLdu_resetSender (b : Blocks) (v : Ldu) : (b.withLdu v).resetSender = b.resetSender := rfl
@[simp] theorem Blocks.withLdu_lki (b : Blocks) (v : Ldu) : (b.withLdu v).lki = b.lki := rfl
@[simp] theorem Blocks.withLdu_bcu (b : Blocks) (v : Ldu) : (b.withLdu v).bcu = b.bcu := rfl
@[simp] theorem Blocks.withLdu_rsq (b : Blocks) (v : Ldu) : (b.withLdu v).rsq = b.rsq := rfl
@[simp] theorem Blocks.withLdu_adu (b : Blocks) (v : Ldu) : (b.withLdu v).adu = b.adu := rfl
@[simp] theorem Blocks.withLdu_ldu (b : Blocks) (v : Ldu) : (b.withLdu v).ldu = v := rfl
@[simp] theorem Blocks.withLdu_riu (b : Blocks) (v : Ldu) : (b.withLdu v).riu = b.riu := rfl
@[simp] theorem Blocks.withLdu_egu (b : Blocks) (v : Ldu) : (b.withLdu v).egu = b.egu := rfl
@[simp] theorem Blocks.withLdu_ggu (b : Blocks) (v : Ldu) : (b.withLdu v).ggu = b.ggu := rfl
@[simp] theorem Blocks.withLdu_rpu (b : Blocks) (v : Ldu) : (b.withLdu v).rpu = b.rpu := rfl

/-! ### `Blocks.withRiu` -/

@[simp] theorem Blocks.withRiu_phase (b : Blocks) (v : Riu) : (b.withRiu v).phase = b.phase := rfl
@[simp] theorem Blocks.withRiu_resetSender (b : Blocks) (v : Riu) : (b.withRiu v).resetSender = b.resetSender := rfl
@[simp] theorem Blocks.withRiu_lki (b : Blocks) (v : Riu) : (b.withRiu v).lki = b.lki := rfl
@[simp] theorem Blocks.withRiu_bcu (b : Blocks) (v : Riu) : (b.withRiu v).bcu = b.bcu := rfl
@[simp] theorem Blocks.withRiu_rsq (b : Blocks) (v : Riu) : (b.withRiu v).rsq = b.rsq := rfl
@[simp] theorem Blocks.withRiu_adu (b : Blocks) (v : Riu) : (b.withRiu v).adu = b.adu := rfl
@[simp] theorem Blocks.withRiu_ldu (b : Blocks) (v : Riu) : (b.withRiu v).ldu = b.ldu := rfl
@[simp] theorem Blocks.withRiu_riu (b : Blocks) (v : Riu) : (b.withRiu v).riu = v := rfl
@[simp] theorem Blocks.withRiu_egu (b : Blocks) (v : Riu) : (b.withRiu v).egu = b.egu := rfl
@[simp] theorem Blocks.withRiu_ggu (b : Blocks) (v : Riu) : (b.withRiu v).ggu = b.ggu := rfl
@[simp] theorem Blocks.withRiu_rpu (b : Blocks) (v : Riu) : (b.withRiu v).rpu = b.rpu := rfl

/-! ### `Blocks.withEgu` -/

@[simp] theorem Blocks.withEgu_phase (b : Blocks) (v : Egu) : (b.withEgu v).phase = b.phase := rfl
@[simp] theorem Blocks.withEgu_resetSender (b : Blocks) (v : Egu) : (b.withEgu v).resetSender = b.resetSender := rfl
@[simp] theorem Blocks.withEgu_lki (b : Blocks) (v : Egu) : (b.withEgu v).lki = b.lki := rfl
@[simp] theorem Blocks.withEgu_bcu (b : Blocks) (v : Egu) : (b.withEgu v).bcu = b.bcu := rfl
@[simp] theorem Blocks.withEgu_rsq (b : Blocks) (v : Egu) : (b.withEgu v).rsq = b.rsq := rfl
@[simp] theorem Blocks.withEgu_adu (b : Blocks) (v : Egu) : (b.withEgu v).adu = b.adu := rfl
@[simp] theorem Blocks.withEgu_ldu (b : Blocks) (v : Egu) : (b.withEgu v).ldu = b.ldu := rfl
@[simp] theorem Blocks.withEgu_riu (b : Blocks) (v : Egu) : (b.withEgu v).riu = b.riu := rfl
@[simp] theorem Blocks.withEgu_egu (b : Blocks) (v : Egu) : (b.withEgu v).egu = v := rfl
@[simp] theorem Blocks.withEgu_ggu (b : Blocks) (v : Egu) : (b.withEgu v).ggu = b.ggu := rfl
@[simp] theorem Blocks.withEgu_rpu (b : Blocks) (v : Egu) : (b.withEgu v).rpu = b.rpu := rfl

/-! ### `Blocks.withBcu` -/

@[simp] theorem Blocks.withBcu_phase (b : Blocks) (v : Bcu) : (b.withBcu v).phase = b.phase := rfl
@[simp] theorem Blocks.withBcu_resetSender (b : Blocks) (v : Bcu) : (b.withBcu v).resetSender = b.resetSender := rfl
@[simp] theorem Blocks.withBcu_lki (b : Blocks) (v : Bcu) : (b.withBcu v).lki = b.lki := rfl
@[simp] theorem Blocks.withBcu_bcu (b : Blocks) (v : Bcu) : (b.withBcu v).bcu = v := rfl
@[simp] theorem Blocks.withBcu_rsq (b : Blocks) (v : Bcu) : (b.withBcu v).rsq = b.rsq := rfl
@[simp] theorem Blocks.withBcu_adu (b : Blocks) (v : Bcu) : (b.withBcu v).adu = b.adu := rfl
@[simp] theorem Blocks.withBcu_ldu (b : Blocks) (v : Bcu) : (b.withBcu v).ldu = b.ldu := rfl
@[simp] theorem Blocks.withBcu_riu (b : Blocks) (v : Bcu) : (b.withBcu v).riu = b.riu := rfl
@[simp] theorem Blocks.withBcu_egu (b : Blocks) (v : Bcu) : (b.withBcu v).egu = b.egu := rfl
@[simp] theorem Blocks.withBcu_ggu (b : Blocks) (v : Bcu) : (b.withBcu v).ggu = b.ggu := rfl
@[simp] theorem Blocks.withBcu_rpu (b : Blocks) (v : Bcu) : (b.withBcu v).rpu = b.rpu := rfl

/-! ### `Blocks.withLki` -/

@[simp] theorem Blocks.withLki_phase (b : Blocks) (v : Lki) : (b.withLki v).phase = b.phase := rfl
@[simp] theorem Blocks.withLki_resetSender (b : Blocks) (v : Lki) : (b.withLki v).resetSender = b.resetSender := rfl
@[simp] theorem Blocks.withLki_lki (b : Blocks) (v : Lki) : (b.withLki v).lki = v := rfl
@[simp] theorem Blocks.withLki_bcu (b : Blocks) (v : Lki) : (b.withLki v).bcu = b.bcu := rfl
@[simp] theorem Blocks.withLki_rsq (b : Blocks) (v : Lki) : (b.withLki v).rsq = b.rsq := rfl
@[simp] theorem Blocks.withLki_adu (b : Blocks) (v : Lki) : (b.withLki v).adu = b.adu := rfl
@[simp] theorem Blocks.withLki_ldu (b : Blocks) (v : Lki) : (b.withLki v).ldu = b.ldu := rfl
@[simp] theorem Blocks.withLki_riu (b : Blocks) (v : Lki) : (b.withLki v).riu = b.riu := rfl
@[simp] theorem Blocks.withLki_egu (b : Blocks) (v : Lki) : (b.withLki v).egu = b.egu := rfl
@[simp] theorem Blocks.withLki_ggu (b : Blocks) (v : Lki) : (b.withLki v).ggu = b.ggu := rfl
@[simp] theorem Blocks.withLki_rpu (b : Blocks) (v : Lki) : (b.withLki v).rpu = b.rpu := rfl

/-! ### `Blocks.withRpu` -/

@[simp] theorem Blocks.withRpu_phase (b : Blocks) (v : Rpu) : (b.withRpu v).phase = b.phase := rfl
@[simp] theorem Blocks.withRpu_resetSender (b : Blocks) (v : Rpu) : (b.withRpu v).resetSender = b.resetSender := rfl
@[simp] theorem Blocks.withRpu_lki (b : Blocks) (v : Rpu) : (b.withRpu v).lki = b.lki := rfl
@[simp] theorem Blocks.withRpu_bcu (b : Blocks) (v : Rpu) : (b.withRpu v).bcu = b.bcu := rfl
@[simp] theorem Blocks.withRpu_rsq (b : Blocks) (v : Rpu) : (b.withRpu v).rsq = b.rsq := rfl
@[simp] theorem Blocks.withRpu_adu (b : Blocks) (v : Rpu) : (b.withRpu v).adu = b.adu := rfl
@[simp] theorem Blocks.withRpu_ldu (b : Blocks) (v : Rpu) : (b.withRpu v).ldu = b.ldu := rfl
@[simp] theorem Blocks.withRpu_riu (b : Blocks) (v : Rpu) : (b.withRpu v).riu = b.riu := rfl
@[simp] theorem Blocks.withRpu_egu (b : Blocks) (v : Rpu) : (b.withRpu v).egu = b.egu := rfl
@[simp] theorem Blocks.withRpu_ggu (b : Blocks) (v : Rpu) : (b.withRpu v).ggu = b.ggu := rfl
@[simp] theorem Blocks.withRpu_rpu (b : Blocks) (v : Rpu) : (b.withRpu v).rpu = v := rfl

/-! ### `State.withBlk`, `State.dropRequest`, `State.reply` -/

@[simp] theorem State.withBlk_site (s : State) (b : Blocks) : (s.withBlk b).site = s.site := rfl
@[simp] theorem State.withBlk_blk (s : State) (b : Blocks) : (s.withBlk b).blk = b := rfl
@[simp] theorem State.withBlk_held (s : State) (b : Blocks) : (s.withBlk b).held = s.held := rfl
@[simp] theorem State.withBlk_received (s : State) (b : Blocks) : (s.withBlk b).received = s.received := rfl
@[simp] theorem State.withBlk_mem (s : State) (b : Blocks) : (s.withBlk b).mem = s.mem := rfl
@[simp] theorem State.withBlk_pending (s : State) (b : Blocks) : (s.withBlk b).pending = s.pending := rfl
@[simp] theorem State.withBlk_free (s : State) (b : Blocks) : (s.withBlk b).free = s.free := rfl
@[simp] theorem State.dropRequest_site (s : State) : s.dropRequest.site = s.site := rfl
@[simp] theorem State.dropRequest_held (s : State) : s.dropRequest.held = s.held := rfl
@[simp] theorem State.dropRequest_received (s : State) : s.dropRequest.received = s.received := rfl
@[simp] theorem State.dropRequest_mem (s : State) : s.dropRequest.mem = s.mem := rfl
@[simp] theorem State.dropRequest_pending (s : State) : s.dropRequest.pending = s.pending := rfl
@[simp] theorem State.dropRequest_free (s : State) : s.dropRequest.free = s.free := rfl
@[simp] theorem State.reply_site (s : State) (r : Request) (a : AnswerCode) (d : List Byte) :
    (s.reply r a d).site = s.site := rfl
@[simp] theorem State.reply_held (s : State) (r : Request) (a : AnswerCode) (d : List Byte) :
    (s.reply r a d).held = s.held := rfl
@[simp] theorem State.reply_received (s : State) (r : Request) (a : AnswerCode) (d : List Byte) :
    (s.reply r a d).received = s.received := rfl
@[simp] theorem State.reply_mem (s : State) (r : Request) (a : AnswerCode) (d : List Byte) :
    (s.reply r a d).mem = s.mem := rfl
@[simp] theorem State.reply_pending (s : State) (r : Request) (a : AnswerCode) (d : List Byte) :
    (s.reply r a d).pending = s.pending := rfl
@[simp] theorem State.reply_free (s : State) (r : Request) (a : AnswerCode) (d : List Byte) :
    (s.reply r a d).free = s.free := rfl

/-- Taking a request changes the Receive Buffer and nothing else. -/
theorem State.dropRequest_blk (s : State) :
    s.dropRequest.blk = { s.blk with lki := { s.blk.lki with recv := s.blk.lki.recv.tail } } := rfl

/-- Answering appends one answer and changes nothing else. -/
theorem State.reply_blk (s : State) (r : Request) (a : AnswerCode) (d : List Byte) :
    (s.reply r a d).blk = { s.blk with
      lki := { s.blk.lki with placed := s.blk.lki.placed ++ [{ dest := r.sender, payload := answerPayload r a d }] } } := rfl

end Sys2Proof.Machine
end

