-- ==== Sys2Proof/Laws/Keeps.lean ====
section
/-! SUPPORT. What the flow of points, moves, indents, captures and claims never touches: the station phase, the link's
collections, the readout, the lamp, the capture counter, the cursor. One lemma per shared operation. -/

namespace Sys2Proof.Machine

-- One theorem after the other: threads that wait for earlier ones cost memory.
set_option Elab.async false

/-- `b'` keeps what the pipeline never writes in `b`; the Row Queue is as it was, or emptied by the end of a capture; the
Claim Queue, the counters and the load unit stay within their ranges; the force window, the force word, the plan parts and the
run owner are as they were. -/
structure Blocks.Keeps (b b' : Blocks) : Prop where
  window : b'.ldu.window = b.ldu.window
  word : b'.ldu.word = b.ldu.word
  phase : b'.phase = b.phase
  resetSender : b'.resetSender = b.resetSender
  synced : b'.lki.synced = b.lki.synced
  recv : b'.lki.recv = b.lki.recv
  placed : b'.lki.placed = b.lki.placed
  reserved : b'.lki.reserved = b.lki.reserved
  tx : b'.lki.tx = b.lki.tx
  peers : b'.bcu.peers = b.bcu.peers
  benchQueue : b'.bcu.benchQueue = b.bcu.benchQueue
  quietIn : b'.bcu.quietIn = b.bcu.quietIn
  motionIn : b'.bcu.motionIn = b.bcu.motionIn
  rowCount : b'.riu.rowCount = b.riu.rowCount
  readout : b'.riu.readout = b.riu.readout
  lamp : b'.riu.lamp = b.riu.lamp
  counter : b'.riu.counter = b.riu.counter
  curRow : b'.riu.curRow = b.riu.curRow
  curCol : b'.riu.curCol = b.riu.curCol
  peakFill : b'.riu.peakFill = b.riu.peakFill
  warmup : b'.riu.warmup = b.riu.warmup
  rows : b'.riu.rows = b.riu.rows ∨ b'.riu.rows = []
  plans : b'.rsq.plans = b.rsq.plans
  owner : b'.rsq.owner = b.rsq.owner
  claims : b.bcu.ClaimsOk → b'.bcu.ClaimsOk
  reports : b.rpu.Ok → b'.rpu.Ok
  load : b.ldu.Ok → b'.ldu.Ok

/-! ### The parts that keep themselves within their ranges -/

theorem Rpu.Ok.raise {r : Rpu} (h : r.Ok) (m : Byte) (n : Notice) : (r.raise m n).Ok := by
  unfold Rpu.raise
  split
  · exact h
  · simp only
    split
    · unfold Rpu.becamePending
      split <;> exact h
    · exact h

theorem Rpu.Ok.count {r : Rpu} (h : r.Ok) (m : Byte) (c : Counter) : (r.count m c).Ok := by
  unfold Rpu.count
  simp only
  split
  · exact h
  · rename_i hc
    have h' : Rpu.Ok { r with counters := r.counters.set c.index (r.counters[c.index] + 1) } := by
      refine ⟨fun i => ?_, h.2⟩
      have := h.1 i
      by_cases e : c.index = i
      · subst e
        have hv : ¬ 65535 ≤ r.counters[c.index] := hc
        show (r.counters.set c.index (r.counters[c.index] + 1))[c.index] ≤ 65535
        rw [Fin.getElem_fin, Vector.getElem_set_self]
        omega
      · have e' : (c.index : Nat) ≠ i := fun k => e (Fin.ext k)
        simp only [Fin.getElem_fin]
        rw [Vector.getElem_set_ne _ _ e']
        exact this
    split
    · exact h'.raise m .countFull
    · exact h'

/-- Removing claims and refilling their places keeps the Claim Queue's form. -/
theorem Bcu.refill_claimsOk (c : Bcu) {rest : List Claim} (hr : rest.length ≤ 2) :
    (c.refill rest).ClaimsOk := by
  unfold Bcu.refill Bcu.ClaimsOk
  simp only [List.length_append, List.length_take]
  refine ⟨by omega, fun hl => ?_⟩
  apply List.drop_eq_nil_of_le
  omega

theorem Bcu.ClaimsOk.dropActive {c : Bcu} (h : c.ClaimsOk) : c.dropActive.ClaimsOk := by
  exact c.refill_claimsOk (rest := c.claims.tail) (by have := h.1; simp; omega)

theorem Ldu.Ok.setCause {l : Ldu} (h : l.Ok) (now : Stamp) (r : Reason) : (l.setCause now r).Ok := by
  unfold Ldu.setCause
  split <;> exact h

@[simp] theorem Ldu.setCause_window (l : Ldu) (now : Stamp) (r : Reason) : (l.setCause now r).window = l.window := by
  unfold Ldu.setCause
  split <;> rfl
@[simp] theorem Ldu.setCause_word (l : Ldu) (now : Stamp) (r : Reason) : (l.setCause now r).word = l.word := by
  unfold Ldu.setCause
  split <;> rfl
@[simp] theorem Ldu.unload_window (l : Ldu) (now : Stamp) (a : Bool) : (l.unload now a).window = l.window := rfl
@[simp] theorem Ldu.unload_word (l : Ldu) (now : Stamp) (a : Bool) : (l.unload now a).word = l.word := rfl

theorem Ldu.Ok.unload {l : Ldu} (h : l.Ok) (now : Stamp) (a : Bool) : (l.unload now a).Ok := h

theorem Ldu.Ok.retract {l : Ldu} (h : l.Ok) (now : Stamp) : (l.retract now).Ok := h

theorem Ldu.Ok.rest {l : Ldu} (h : l.Ok) : l.rest.Ok := ⟨h.1, by simp [Ldu.rest], h.2.2⟩

theorem Ldu.Ok.begin_ {l : Ldu} (h : l.Ok) (now : Stamp) : (l.begin_ now).Ok := h

theorem Ldu.Ok.takeOrder {l : Ldu} (h : l.Ok) (now : Stamp) (o : IndentOrder) : (l.takeOrder now o).Ok :=
  ⟨h.1, by simp [Ldu.takeOrder], h.2.2⟩

/-! ### Plan parts and run owner through the sequencer's own operations -/

@[simp] theorem Point.withState_plan (st : PointState) (p : Point) : (p.withState st).plan = p.plan := rfl
@[simp] theorem Point.withEnd_plan (st : PointState) (r : Option Reason) (p : Point) : (p.withEnd st r).plan = p.plan := rfl
@[simp] theorem Point.recentre_plan (rc : Recentring) (p : Point) : (p.recentre rc).plan = p.plan := rfl

@[simp] theorem Point.countRecapture_plan (r : Reason) (p : Point) : (p.countRecapture r).plan = p.plan := by
  unfold Point.countRecapture
  split <;> rfl

@[simp] theorem Rsq.modify_plans (r : Rsq) (q : Seq) (f : Point → Point) (h : ∀ p, (f p).plan = p.plan) :
    (r.modify q f).plans = r.plans := by
  simp only [Rsq.plans, Rsq.modify, List.map_map]
  refine List.map_congr_left fun p _ => ?_
  simp only [Function.comp]
  split
  · exact h p
  · rfl

@[simp] theorem Rsq.modify_withState_plans (r : Rsq) (q : Seq) (st : PointState) :
    (r.modify q (Point.withState st)).plans = r.plans := r.modify_plans q _ fun _ => rfl
@[simp] theorem Rsq.modify_withEnd_plans (r : Rsq) (q : Seq) (st : PointState) (w : Option Reason) :
    (r.modify q (Point.withEnd st w)).plans = r.plans := r.modify_plans q _ fun _ => rfl
@[simp] theorem Rsq.modify_recentre_plans (r : Rsq) (q : Seq) (rc : Recentring) :
    (r.modify q (Point.recentre rc)).plans = r.plans := r.modify_plans q _ fun _ => rfl
@[simp] theorem Rsq.modify_owner (r : Rsq) (q : Seq) (f : Point → Point) : (r.modify q f).owner = r.owner := rfl
@[simp] theorem Rsq.remove_plans (r : Rsq) (q : Seq) : (r.remove q).plans = r.plans := rfl
@[simp] theorem Rsq.remove_owner (r : Rsq) (q : Seq) : (r.remove q).owner = r.owner := rfl
@[simp] theorem Rsq.enqueueResult_plans (r : Rsq) (q : Seq) : (r.enqueueResult q).plans = r.plans := rfl
@[simp] theorem Rsq.enqueueResult_owner (r : Rsq) (q : Seq) : (r.enqueueResult q).owner = r.owner := rfl
@[simp] theorem Rsq.collect_plans (r : Rsq) : r.collect.plans = r.plans := rfl
@[simp] theorem Rsq.collect_owner (r : Rsq) : r.collect.owner = r.owner := rfl
@[simp] theorem Rsq.travel_plans (r : Rsq) : r.travel.plans = r.plans := rfl
@[simp] theorem Rsq.travel_owner (r : Rsq) : r.travel.owner = r.owner := rfl
@[simp] theorem Rsq.viewArrived_plans (r : Rsq) (q : Seq) : (r.viewArrived q).plans = r.plans := rfl
@[simp] theorem Rsq.viewArrived_owner (r : Rsq) (q : Seq) : (r.viewArrived q).owner = r.owner := rfl

@[simp] theorem Rsq.returnToGroup_plans (r : Rsq) (q : Seq) : (r.returnToGroup q).plans = r.plans := by
  unfold Rsq.returnToGroup
  split <;> rfl
@[simp] theorem Rsq.returnToGroup_owner (r : Rsq) (q : Seq) : (r.returnToGroup q).owner = r.owner := by
  unfold Rsq.returnToGroup
  split <;> rfl

@[simp] theorem Rsq.flushNext_plans (r : Rsq) : r.flushNext.plans = r.plans := by
  unfold Rsq.flushNext
  split <;> rfl
@[simp] theorem Rsq.flushNext_owner (r : Rsq) : r.flushNext.owner = r.owner := by
  unfold Rsq.flushNext
  split <;> rfl

@[simp] theorem Rsq.fillNext_plans (r : Rsq) : r.fillNext.plans = r.plans := by
  unfold Rsq.fillNext
  split <;> rfl
@[simp] theorem Rsq.fillNext_owner (r : Rsq) : r.fillNext.owner = r.owner := by
  unfold Rsq.fillNext
  split <;> rfl

@[simp] theorem Rsq.noteFocus_plans (r : Rsq) (o : CaptureOutcome) : (r.noteFocus o).plans = r.plans := by
  unfold Rsq.noteFocus
  repeat' split
  all_goals rfl
@[simp] theorem Rsq.noteFocus_owner (r : Rsq) (o : CaptureOutcome) : (r.noteFocus o).owner = r.owner := by
  unfold Rsq.noteFocus
  repeat' split
  all_goals rfl

@[simp] theorem Rsq.finishPoint_plans (r : Rsq) (q : Seq) (st : PointState) (w : Option Reason) :
    (r.finishPoint q st w).plans = r.plans := by
  simp [Rsq.finishPoint]
@[simp] theorem Rsq.finishPoint_owner (r : Rsq) (q : Seq) (st : PointState) (w : Option Reason) :
    (r.finishPoint q st w).owner = r.owner := rfl

@[simp] theorem Rsq.returnPoint_plans (r : Rsq) (q : Seq) : (r.returnPoint q).plans = r.plans := by
  simp [Rsq.returnPoint]
@[simp] theorem Rsq.returnPoint_owner (r : Rsq) (q : Seq) : (r.returnPoint q).owner = r.owner := by
  simp [Rsq.returnPoint]

namespace Blocks.Keeps

theorem refl (b : Blocks) : b.Keeps b :=
  ⟨rfl, rfl, rfl, rfl, rfl, rfl, rfl, rfl, rfl, rfl, rfl, rfl, rfl, rfl, rfl, rfl, rfl, rfl, rfl, rfl, rfl,
    Or.inl rfl, rfl, rfl, id, id, id⟩

theorem trans {b c d : Blocks} (h : b.Keeps c) (k : c.Keeps d) : b.Keeps d where
  window := k.window.trans h.window
  word := k.word.trans h.word
  phase := k.phase.trans h.phase
  resetSender := k.resetSender.trans h.resetSender
  synced := k.synced.trans h.synced
  recv := k.recv.trans h.recv
  placed := k.placed.trans h.placed
  reserved := k.reserved.trans h.reserved
  tx := k.tx.trans h.tx
  peers := k.peers.trans h.peers
  benchQueue := k.benchQueue.trans h.benchQueue
  quietIn := k.quietIn.trans h.quietIn
  motionIn := k.motionIn.trans h.motionIn
  rowCount := k.rowCount.trans h.rowCount
  readout := k.readout.trans h.readout
  lamp := k.lamp.trans h.lamp
  counter := k.counter.trans h.counter
  curRow := k.curRow.trans h.curRow
  curCol := k.curCol.trans h.curCol
  peakFill := k.peakFill.trans h.peakFill
  warmup := k.warmup.trans h.warmup
  rows := by
    rcases k.rows with e | e
    · rw [e]; exact h.rows
    · exact Or.inr e
  plans := k.plans.trans h.plans
  owner := k.owner.trans h.owner
  claims := fun w => k.claims (h.claims w)
  reports := fun w => k.reports (h.reports w)
  load := fun w => k.load (h.load w)

/-- A sequencer with the same plan parts and the same owner put in place of one. -/
theorem withRsq (b : Blocks) (v : Rsq) (hp : v.plans = b.rsq.plans := by
      first | rfl | (simp; done) | exact Rsq.modify_plans _ _ _ fun _ => rfl)
    (ho : v.owner = b.rsq.owner := by first | rfl | (simp; done)) : b.Keeps (b.withRsq v) :=
  ⟨rfl, rfl, rfl, rfl, rfl, rfl, rfl, rfl, rfl, rfl, rfl, rfl, rfl, rfl, rfl, rfl, rfl, rfl, rfl, rfl, rfl,
    Or.inl rfl, hp, ho, id, id, id⟩

theorem withAdu (b : Blocks) (v : Adu) : b.Keeps (b.withAdu v) :=
  ⟨rfl, rfl, rfl, rfl, rfl, rfl, rfl, rfl, rfl, rfl, rfl, rfl, rfl, rfl, rfl, rfl, rfl, rfl, rfl, rfl, rfl,
    Or.inl rfl, rfl, rfl, id, id, id⟩
theorem withEgu (b : Blocks) (v : Egu) : b.Keeps (b.withEgu v) :=
  ⟨rfl, rfl, rfl, rfl, rfl, rfl, rfl, rfl, rfl, rfl, rfl, rfl, rfl, rfl, rfl, rfl, rfl, rfl, rfl, rfl, rfl,
    Or.inl rfl, rfl, rfl, id, id, id⟩

/-- A load unit within its ranges put in place of one. -/
theorem withLdu (b : Blocks) (v : Ldu) (h : b.ldu.Ok → v.Ok)
    (h1 : v.window = b.ldu.window := by first | rfl | (simp; done))
    (h2 : v.word = b.ldu.word := by first | rfl | (simp; done)) : b.Keeps (b.withLdu v) :=
  ⟨h1, h2, rfl, rfl, rfl, rfl, rfl, rfl, rfl, rfl, rfl, rfl, rfl, rfl, rfl, rfl, rfl, rfl, rfl, rfl, rfl,
    Or.inl rfl, rfl, rfl, id, id, h⟩

/-- A coordination unit that changes neither tables nor line levels nor the claims. -/
theorem withBcu (b : Blocks) (v : Bcu) (hp : v.peers = b.bcu.peers) (hq : v.benchQueue = b.bcu.benchQueue)
    (h1 : v.quietIn = b.bcu.quietIn) (h2 : v.motionIn = b.bcu.motionIn) (hc : b.bcu.ClaimsOk → v.ClaimsOk) :
    b.Keeps (b.withBcu v) :=
  ⟨rfl, rfl, rfl, rfl, rfl, rfl, rfl, rfl, rfl, hp, hq, h1, h2, rfl, rfl, rfl, rfl, rfl, rfl, rfl, rfl,
    Or.inl rfl, rfl, rfl, hc, id, id⟩

/-- A capture record put into the RIU. -/
theorem capture (b : Blocks) (c : Option Capture) : b.Keeps (b.withRiu { b.riu with capture := c }) :=
  ⟨rfl, rfl, rfl, rfl, rfl, rfl, rfl, rfl, rfl, rfl, rfl, rfl, rfl, rfl, rfl, rfl, rfl, rfl, rfl, rfl, rfl,
    Or.inl rfl, rfl, rfl, id, id, id⟩

/-- A camera timer started. -/
theorem camera (b : Blocks) (t : Timer) : b.Keeps (b.withRiu { b.riu with camera := t }) :=
  ⟨rfl, rfl, rfl, rfl, rfl, rfl, rfl, rfl, rfl, rfl, rfl, rfl, rfl, rfl, rfl, rfl, rfl, rfl, rfl, rfl, rfl,
    Or.inl rfl, rfl, rfl, id, id, id⟩

end Blocks.Keeps

open Blocks (Keeps)

/-! ### Reports, claims, the bench -/

theorem raise_keeps (e : Site) (n : Notice) (b : Blocks) : b.Keeps (raise e n b) :=
  ⟨rfl, rfl, rfl, rfl, rfl, rfl, rfl, rfl, rfl, rfl, rfl, rfl, rfl, rfl, rfl, rfl, rfl, rfl, rfl, rfl, rfl, Or.inl rfl, rfl, rfl, id, fun h => h.raise _ _, id⟩

theorem count_keeps (e : Site) (c : Counter) (b : Blocks) : b.Keeps (count e c b) :=
  ⟨rfl, rfl, rfl, rfl, rfl, rfl, rfl, rfl, rfl, rfl, rfl, rfl, rfl, rfl, rfl, rfl, rfl, rfl, rfl, rfl, rfl, Or.inl rfl, rfl, rfl, id, fun h => h.count _ _, id⟩

theorem conditionEdge_keeps (e : Site) (n : Notice) (x y : Bool) (b : Blocks) : b.Keeps (conditionEdge e n x y b) := by
  unfold conditionEdge
  split
  · exact raise_keeps e n b
  · split
    · exact raise_keeps e n b
    · exact Keeps.refl b

theorem placeState_keeps (e : Site) (b : Blocks) : b.Keeps (placeState e b) := by
  unfold placeState
  split
  · exact Keeps.refl b
  · exact ⟨rfl, rfl, rfl, rfl, rfl, rfl, rfl, rfl, rfl, rfl, rfl, rfl, rfl, rfl, rfl, rfl, rfl, rfl, rfl, rfl, rfl,
    Or.inl rfl, rfl, rfl, id, id, id⟩

theorem enterOwn_keeps (e : Site) (o : OwnState) (b : Blocks) : b.Keeps (enterOwn e o b) :=
  (Keeps.withBcu b { b.bcu with own := o } rfl rfl rfl rfl (fun h => h)).trans (placeState_keeps e _)

theorem testEligible_keeps (e : Site) (b : Blocks) : b.Keeps (testEligible e b) := by
  unfold testEligible
  split
  · split
    · exact enterOwn_keeps e _ b
    · exact Keeps.refl b
  · split
    · exact Keeps.withBcu b { b.bcu with own := .holding, sense := some e.now } rfl rfl rfl rfl (fun h => h)
    · exact Keeps.refl b
  all_goals exact Keeps.refl b

theorem activateNext_keeps (e : Site) (b : Blocks) : b.Keeps (activateNext e b) := by
  unfold activateNext
  split
  · exact enterOwn_keeps e _ b
  · exact (enterOwn_keeps e _ b).trans (testEligible_keeps e _)

theorem enterBlocked_keeps (b : Blocks) : b.Keeps (enterBlocked b) :=
  ⟨rfl, rfl, rfl, rfl, rfl, rfl, rfl, rfl, rfl, rfl, rfl, rfl, rfl, rfl, rfl, rfl, rfl, rfl, rfl, rfl, rfl,
    Or.inl rfl, rfl, rfl, id, id, id⟩

theorem leaveClaim_keeps (b : Blocks) : b.Keeps (leaveClaim b) :=
  Keeps.withBcu b _ rfl rfl rfl rfl (fun h => h.dropActive)

theorem nextClaim_keeps (e : Site) (b : Blocks) : b.Keeps (nextClaim e b) := by
  unfold nextClaim
  split
  · exact enterBlocked_keeps b
  · exact activateNext_keeps e b

theorem endActive_keeps (e : Site) (b : Blocks) : b.Keeps (endActive e b) :=
  (leaveClaim_keeps b).trans (nextClaim_keeps e _)

theorem claimArrives_keeps (e : Site) (c : Claim) (b : Blocks) : b.Keeps (claimArrives e c b) := by
  unfold claimArrives
  split
  · rename_i h2
    refine Keeps.withBcu b _ rfl rfl rfl rfl (fun h => ⟨h.1, fun hl => ?_⟩)
    simp only at hl
    omega
  · rename_i h2
    have hk : b.Keeps (b.withBcu { b.bcu with claims := b.bcu.claims ++ [c] }) := by
      refine Keeps.withBcu b _ rfl rfl rfl rfl (fun h => ⟨?_, fun _ => h.2 (by omega)⟩)
      simp only [List.length_append, List.length_singleton]
      omega
    simp only
    split
    · exact hk.trans (activateNext_keeps e _)
    · exact hk

theorem endMotion_keeps (e : Site) (b : Blocks) : b.Keeps (endMotion e b) := by
  unfold endMotion
  split
  · exact (enterOwn_keeps e _ b).trans (Keeps.withBcu _ _ rfl rfl rfl rfl (fun h => h))
  · exact Keeps.refl b

theorem cancelClaim_keeps (e : Site) (who : Claimant) (b : Blocks) : b.Keeps (cancelClaim e who b) := by
  unfold cancelClaim
  split
  · refine Keeps.withBcu b _ rfl rfl rfl rfl (fun h => ⟨h.1, fun hl => ?_⟩)
    have := h.2 hl
    simp [this]
  · split
    · split <;> first | exact endActive_keeps e b | exact endMotion_keeps e b | exact Keeps.refl b
    · split
      · refine Keeps.withBcu b _ rfl rfl rfl rfl (fun h => Bcu.refill_claimsOk _ ?_)
        exact Nat.le_trans (List.length_filter_le _ _) h.1
      · exact Keeps.refl b

theorem takeStateFrame_keeps (e : Site) (s : Station) (f : StateFrame) (b : Blocks) :
    (b.withBcu (b.bcu.takeFrame e.now s f)).Keeps (takeStateFrame e s f b) :=
  (conditionEdge_keeps e _ _ _ _).trans (testEligible_keeps e _)

theorem takeEcho_keeps (e : Site) (f : StateFrame) (b : Blocks) :
    (b.withBcu (b.bcu.takeFrame e.now e.station f)).Keeps (takeEcho e f b) := by
  unfold takeEcho
  simp only
  split
  · exact (takeStateFrame_keeps e _ f b).trans (Keeps.withBcu _ _ rfl rfl rfl rfl (fun h => h))
  · exact takeStateFrame_keeps e _ f b

theorem numberClash_keeps (e : Site) (b : Blocks) : b.Keeps (numberClash e b) := by
  unfold numberClash
  simp only
  split <;>
    first
    | exact (raise_keeps e _ b).trans (Keeps.withBcu _ _ rfl rfl rfl rfl (fun h => h))
    | exact (raise_keeps e _ b).trans (enterBlocked_keeps _)

theorem settleLines_keeps (e : Site) (b : Blocks) : b.Keeps (settleLines e b) := by
  unfold settleLines
  refine Keeps.trans ?_ (conditionEdge_keeps e _ _ _ _)
  exact Keeps.withBcu b _ rfl rfl rfl rfl (fun h => h)

theorem lineBecomesStuck_keeps (e : Site) (l : BenchLine) (b : Blocks) : b.Keeps (lineBecomesStuck e l b) := by
  unfold lineBecomesStuck
  refine ((count_keeps e .stuckEvents b).trans ?_).trans (conditionEdge_keeps e _ _ _ _)
  cases l <;> exact Keeps.withBcu _ _ rfl rfl rfl rfl (fun h => h)

/-! ### Captures -/

theorem seekBank_keeps (e : Site) (b : Blocks) : b.Keeps (seekBank e b) := by
  unfold seekBank
  split
  · exact Keeps.refl b
  · split
    · exact Keeps.capture b _
    · refine Keeps.trans ?_ (claimArrives_keeps e _ _)
      exact ⟨rfl, rfl, rfl, rfl, rfl, rfl, rfl, rfl, rfl, rfl, rfl, rfl, rfl, rfl, rfl, rfl, rfl, rfl, rfl, rfl, rfl,
    Or.inl rfl, rfl, rfl, id, id, id⟩

theorem seekWaiting_keeps (e : Site) (b : Blocks) : b.Keeps (seekWaiting e b) := by
  unfold seekWaiting
  split
  · exact seekBank_keeps e b
  · exact Keeps.refl b

theorem orderCapture_keeps (e : Site) (p : Point) (k : SearchKind) (b : Blocks) : b.Keeps (orderCapture e p k b) := by
  unfold orderCapture
  simp only
  split
  · exact Keeps.capture b _
  · exact (Keeps.capture b _).trans (seekBank_keeps e _)

theorem emptyCapture_keeps (b : Blocks) : b.Keeps (emptyCapture b) := by
  unfold emptyCapture Riu.releaseTarget
  split
  · exact ⟨rfl, rfl, rfl, rfl, rfl, rfl, rfl, rfl, rfl, rfl, rfl, rfl, rfl, rfl, rfl, rfl, rfl, rfl, rfl, rfl, rfl, Or.inr rfl, rfl, rfl, id, id, id⟩
  · split <;> exact ⟨rfl, rfl, rfl, rfl, rfl, rfl, rfl, rfl, rfl, rfl, rfl, rfl, rfl, rfl, rfl, rfl, rfl, rfl, rfl, rfl, rfl, Or.inr rfl, rfl, rfl, id, id, id⟩

theorem closeCapture_keeps (e : Site) (b : Blocks) : b.Keeps (closeCapture e b) :=
  (cancelClaim_keeps e _ b).trans (emptyCapture_keeps _)

theorem grantPort_keeps (b : Blocks) : b.Keeps (b.withRiu b.riu.grantPort) := by
  unfold Riu.grantPort
  repeat' split
  all_goals exact ⟨rfl, rfl, rfl, rfl, rfl, rfl, rfl, rfl, rfl, rfl, rfl, rfl, rfl, rfl, rfl, rfl, rfl, rfl, rfl, rfl, rfl,
    Or.inl rfl, rfl, rfl, id, id, id⟩

/-! ### Placements -/

theorem failPoint_keeps (e : Site) (q : Seq) (r : Reason) (b : Blocks) : b.Keeps (failPoint e q r b) :=
  (Keeps.withRsq b _).trans (count_keeps e _ _)

theorem enterLast_keeps (e : Site) (b : Blocks) : b.Keeps (enterLast e b) := by
  unfold enterLast
  split
  · exact ⟨rfl, rfl, rfl, rfl, rfl, rfl, rfl, rfl, rfl, rfl, rfl, rfl, rfl, rfl, rfl, rfl, rfl, rfl, rfl, rfl, rfl, Or.inl rfl, Rsq.modify_withState_plans _ _ _, rfl, id, id, id⟩
  · exact Keeps.refl b

theorem placeIndent_keeps (e : Site) (q : Seq) (o : IndentOutcome) (b : Blocks) : b.Keeps (placeIndent e q o b) := by
  unfold placeIndent
  split
  · refine Keeps.withRsq b _ ?_ ?_
    · split
      · rw [Rsq.returnToGroup_plans]
        exact (Rsq.modify_plans _ _ _ fun _ => rfl)
      · exact (Rsq.modify_plans (b.rsq.remove q) _ _ fun _ => rfl)
    · split
      · rw [Rsq.returnToGroup_owner]
        rfl
      · rfl
  · exact (Keeps.withRsq b _).trans (failPoint_keeps e _ _ _)
  · exact Keeps.withRsq b _

theorem recapture_keeps (e : Site) (q : Seq) (r : Reason) (k : Bool) (b : Blocks) : b.Keeps (recapture e q r k b) := by
  have hp : ((b.rsq.remove q).modify q fun p => (p.withState .indented).countRecapture r).flushNext.plans
      = b.rsq.plans := by
    rw [Rsq.flushNext_plans, Rsq.modify_plans _ _ _ fun _ => by simp]
    rfl
  have ho : ((b.rsq.remove q).modify q fun p => (p.withState .indented).countRecapture r).flushNext.owner
      = b.rsq.owner := by
    rw [Rsq.flushNext_owner]
    rfl
  unfold recapture
  simp only
  refine Keeps.trans ?_ (count_keeps e _ _)
  exact Keeps.withRsq b _ hp ho

theorem placeCaptureFailure_keeps (e : Site) (q : Seq) (r : Reason) (k : Bool) (b : Blocks) :
    b.Keeps (placeCaptureFailure e q r k b) := by
  unfold placeCaptureFailure
  split
  · split
    · exact Keeps.withRsq b _
    · exact recapture_keeps e _ _ _ b
  · exact failPoint_keeps e _ _ b

theorem placeCapture_keeps (e : Site) (q : Seq) (o : CaptureOutcome) (b : Blocks) : b.Keeps (placeCapture e q o b) := by
  unfold placeCapture
  simp only
  split
  · split
    · exact (Keeps.withRsq b _).trans (Keeps.withRsq _ _)
    · exact ((Keeps.withRsq b _).trans (Keeps.withRsq _ _)).trans (enterLast_keeps e _)
  · exact (Keeps.withRsq b _).trans (placeCaptureFailure_keeps e _ _ _ _)
  · exact (Keeps.withRsq b _).trans (Keeps.withRsq _ _)
  · exact Keeps.withRsq b _

theorem placeClipped_keeps (e : Site) (p : Point) (rc : Recentring) (b : Blocks) : b.Keeps (placeClipped e p rc b) := by
  unfold placeClipped
  simp only
  split
  · exact failPoint_keeps e _ _ b
  · split
    · exact (Keeps.withRsq b _).trans (Keeps.withRsq _ _)
    · exact (Keeps.withRsq b _).trans (recapture_keeps e _ _ _ _)

theorem placeMeasurement_keeps (e : Site) (q : Seq) (o : GaugeOutcome) (b : Blocks) :
    b.Keeps (placeMeasurement e q o b) := by
  unfold placeMeasurement
  split
  · exact (Keeps.withRsq b _).trans (count_keeps e _ _)
  · exact failPoint_keeps e _ _ b
  · exact failPoint_keeps e _ _ b
  · exact failPoint_keeps e _ _ b
  · split
    · exact Keeps.refl b
    · exact placeClipped_keeps e _ _ b

theorem returnBank_keeps (e : Site) (k : BankId) (b : Blocks) : b.Keeps (returnBank e k b) := by
  refine Keeps.trans ?_ (seekWaiting_keeps e _)
  split
  · exact ⟨rfl, rfl, rfl, rfl, rfl, rfl, rfl, rfl, rfl, rfl, rfl, rfl, rfl, rfl, rfl, rfl, rfl, rfl, rfl, rfl, rfl,
    Or.inl rfl, rfl, rfl, id, id, id⟩
  · exact Keeps.refl b

theorem startIndent_keeps (e : Site) (p : Point) (b : Blocks) : b.Keeps (startIndent e p b) := by
  refine Keeps.trans ?_ (claimArrives_keeps e _ _)
  exact ⟨rfl, rfl, rfl, rfl, rfl, rfl, rfl, rfl, rfl, rfl, rfl, rfl, rfl, rfl, rfl, rfl, rfl, rfl, rfl, rfl, rfl, Or.inl rfl, Rsq.modify_withState_plans _ _ _, rfl, id, id, fun h => h.takeOrder _ _⟩

theorem placeMove_keeps (e : Site) (m : Move) (r : MoveReport) (b : Blocks) : b.Keeps (placeMove e m r b) := by
  unfold placeMove
  simp only
  split
  · exact (Keeps.withRsq b _).trans (Keeps.withRsq _ _)
  · split
    · split
      · exact (Keeps.withRsq b _).trans (startIndent_keeps e _ _)
      · exact Keeps.withRsq b _
    · exact Keeps.withRsq b _
  · exact Keeps.withRsq b _

/-! ### Ends, notices, faults -/

theorem reportMove_keeps (e : Site) (b : Blocks) : b.Keeps (reportMove e b) := by
  unfold reportMove
  split
  · exact Keeps.refl b
  · exact (Keeps.withAdu b _).trans (placeMove_keeps e _ _ _)

theorem endMoveIfDone_keeps (e : Site) (b : Blocks) : b.Keeps (endMoveIfDone e b) := by
  unfold endMoveIfDone
  split
  · exact Keeps.refl b
  · split
    · exact (Keeps.withAdu b _).trans (endMotion_keeps e _)
    · exact Keeps.refl b

theorem stopMove_keeps (e : Site) (b : Blocks) : b.Keeps (stopMove e b) := by
  unfold stopMove
  split
  · exact Keeps.refl b
  · split
    · exact Keeps.refl b
    · split
      · simp only
        split
        · exact (Keeps.withAdu b _).trans (cancelClaim_keeps e .adu _)
        · exact ((Keeps.withAdu b _).trans (cancelClaim_keeps e .adu _)).trans (reportMove_keeps e _)
      · exact (Keeps.withAdu b _).trans (endMoveIfDone_keeps e _)
      · exact Keeps.withAdu b _
      · exact Keeps.refl b

theorem endIndent_keeps (e : Site) (b : Blocks) : b.Keeps (endIndent e b) := by
  unfold endIndent
  simp only
  have h := (Keeps.withLdu b b.ldu.rest (fun h => h.rest)).trans (cancelClaim_keeps e .ldu _)
  split
  · exact h
  · exact h.trans (placeIndent_keeps e _ _ _)

theorem enterRetract_keeps (e : Site) (b : Blocks) : b.Keeps (enterRetract e b) := by
  unfold enterRetract
  simp only
  split
  · exact (Keeps.withLdu b _ (fun h => h.retract _)).trans (endIndent_keeps e _)
  · exact Keeps.withLdu b _ (fun h => h.retract _)

theorem failIndent_keeps (e : Site) (r : Reason) (b : Blocks) : b.Keeps (failIndent e r b) := by
  unfold failIndent
  split
  · exact (Keeps.withLdu b _ (fun h => h.setCause _ _)).trans (raise_keeps e _ _)
  · exact Keeps.refl b

theorem abortUnload_keeps (e : Site) (r : Reason) (b : Blocks) : b.Keeps (abortUnload e r b) :=
  (failIndent_keeps e r b).trans (Keeps.withLdu _ _ (fun h => h.unload _ _))

theorem haltIndent_keeps (e : Site) (b : Blocks) : b.Keeps (haltIndent e b) := by
  unfold haltIndent
  split
  · exact (Keeps.withLdu b _ (fun h => h.setCause _ _)).trans (endIndent_keeps e _)
  · exact (Keeps.withLdu b _ (fun h => h.setCause _ _)).trans (enterRetract_keeps e _)
  · exact Keeps.withLdu b _ (fun h => (h.setCause _ _).unload _ _)
  · exact Keeps.withLdu b _ (fun h => (h.setCause _ _).unload _ _)
  all_goals exact Keeps.refl b

theorem endCapture_keeps (e : Site) (o : CaptureOutcome) (b : Blocks) : b.Keeps (endCapture e o b) := by
  unfold endCapture
  split
  · exact Keeps.refl b
  · exact (closeCapture_keeps e b).trans (placeCapture_keeps e _ _ _)

theorem loseRow_keeps (e : Site) (b : Blocks) : b.Keeps (loseRow e b) :=
  (raise_keeps e _ b).trans (endCapture_keeps e _ _)

theorem abandonCapture_keeps (e : Site) (b : Blocks) : b.Keeps (abandonCapture e b) := by
  unfold abandonCapture
  split
  · exact Keeps.refl b
  · simp only
    split <;> first | exact (Keeps.capture b _).trans (endCapture_keeps e _ _) | exact Keeps.capture b _

theorem abandonMeasurement_keeps (b : Blocks) : b.Keeps (abandonMeasurement b) := by
  unfold abandonMeasurement
  split
  · exact Keeps.refl b
  · exact ⟨rfl, rfl, rfl, rfl, rfl, rfl, rfl, rfl, rfl, rfl, rfl, rfl, rfl, rfl, rfl, rfl, rfl, rfl, rfl, rfl, rfl, Or.inl rfl, Rsq.returnPoint_plans _ _, Rsq.returnPoint_owner _ _, id, id, id⟩

theorem drainNow_keeps (e : Site) (b : Blocks) : b.Keeps (drainNow e b) := by
  unfold drainNow
  split
  · exact Keeps.refl b
  · split
    · exact haltIndent_keeps e b
    · exact abandonCapture_keeps e b
    · exact Keeps.withRsq b _

theorem startDrain_keeps (e : Site) (b : Blocks) : b.Keeps (startDrain e b) := by
  unfold startDrain
  simp only
  have h := ((Keeps.withRsq b { b.rsq with draining := true }).trans (stopMove_keeps e _)).trans (drainNow_keeps e _)
  split
  · exact h.trans (abandonMeasurement_keeps _)
  · exact h

theorem takeAxisFault_keeps (e : Site) (v : Option Seq) (b : Blocks) : b.Keeps (takeAxisFault e v b) := by
  have key : ∀ b' : Blocks, b.Keeps b' → b.Keeps
      (let c := b'.withRsq { b'.rsq with run := .stopping }
       if c.rsq.draining then c else startDrain e c) := by
    intro b' h
    simp only
    split
    · exact h.trans (Keeps.withRsq _ _)
    · exact (h.trans (Keeps.withRsq _ _)).trans (startDrain_keeps e _)
  unfold takeAxisFault
  split
  · cases v with
    | none => exact key b (Keeps.refl b)
    | some q => exact key _ (failPoint_keeps e q _ b)
  · cases v with
    | none => exact key b (Keeps.refl b)
    | some q => exact key _ (failPoint_keeps e q _ b)
  all_goals exact Keeps.refl b

theorem takeMoveFault_keeps (e : Site) (b : Blocks) : b.Keeps (takeMoveFault e b) := by
  unfold takeMoveFault
  split
  · exact Keeps.refl b
  · simp only
    split
    · exact (Keeps.withAdu b _).trans (endMoveIfDone_keeps e _)
    · exact (((Keeps.withAdu b _).trans (takeAxisFault_keeps e _ _)).trans (Keeps.withAdu _ _)).trans
        (endMoveIfDone_keeps e _)

theorem faultAxis_keeps (e : Site) (l : LinearAxis) (b : Blocks) : b.Keeps (faultAxis e l b) :=
  ((Keeps.withAdu b _).trans (raise_keeps e _ _)).trans (takeMoveFault_keeps e _)

theorem faultIdleAxis_keeps (e : Site) (l : LinearAxis) (b : Blocks) : b.Keeps (faultIdleAxis e l b) :=
  (Keeps.withAdu b _).trans (raise_keeps e _ _)

theorem faultTurret_keeps (e : Site) (b : Blocks) : b.Keeps (faultTurret e b) := by
  unfold faultTurret
  simp only
  have h := (Keeps.withAdu b { b.adu with turret := .unknown, gap := none }).trans (raise_keeps e .turretFault _)
  split
  · exact (h.trans (Keeps.withAdu _ _)).trans (takeMoveFault_keeps e _)
  · exact h

/-! ### Steps, grants, orders -/

theorem failStep_keeps (e : Site) (b : Blocks) : b.Keeps (failStep e b) :=
  (((Keeps.withAdu b _).trans (raise_keeps e _ _)).trans (endCapture_keeps e _ _)).trans (takeAxisFault_keeps e _ _)

theorem orderStep_keeps (e : Site) (h : Int) (b : Blocks) : b.Keeps (orderStep e h b) := by
  unfold orderStep
  simp only
  split
  · exact failStep_keeps e b
  · split <;> exact Keeps.withAdu b _

theorem stepDone_keeps (e : Site) (b : Blocks) : b.Keeps (stepDone e b) := by
  unfold stepDone
  simp only
  split
  · exact Keeps.withAdu b _
  · split
    · split
      · exact (Keeps.withAdu b _).trans (endCapture_keeps e _ _)
      · exact (Keeps.withAdu b _).trans (Keeps.capture _ _)
    · exact Keeps.withAdu b _

theorem stepToHeight_keeps (e : Site) (b : Blocks) : b.Keeps (stepToHeight e b) := by
  unfold stepToHeight
  split
  · exact (Keeps.capture b _).trans (orderStep_keeps e _ _)
  · exact Keeps.refl b

theorem grantMotion_keeps (e : Site) (b : Blocks) : b.Keeps (grantMotion e b) := by
  unfold grantMotion
  split
  · exact Keeps.refl b
  · split
    · split
      · exact Keeps.withAdu b _
      · exact (Keeps.withAdu b _).trans (endMoveIfDone_keeps e _)
    · exact Keeps.refl b

theorem grantIndent_keeps (e : Site) (b : Blocks) : b.Keeps (grantIndent e b) := by
  unfold grantIndent
  split
  · exact Keeps.withLdu b _ (fun h => h.begin_ _)
  · exact Keeps.refl b

theorem grantCapture_keeps (e : Site) (b : Blocks) : b.Keeps (grantCapture e b) := by
  unfold grantCapture
  split
  · exact Keeps.refl b
  · split
    · exact ((Keeps.camera b _).trans (Keeps.withEgu _ _)).trans (stepToHeight_keeps e _)
    · exact Keeps.refl b

theorem grantQuiet_keeps (e : Site) (b : Blocks) : b.Keeps (grantQuiet e b) := by
  unfold grantQuiet
  simp only
  have h := (Keeps.withBcu b { b.bcu with sense := none } rfl rfl rfl rfl (fun h => h)).trans (enterOwn_keeps e .quiet _)
  split
  · exact h
  · split
    · exact h.trans (grantIndent_keeps e _)
    · exact h.trans (grantCapture_keeps e _)
    · exact h

theorem takeMoveOrder_keeps (e : Site) (m : Move) (b : Blocks) : b.Keeps (takeMoveOrder e m b) := by
  unfold takeMoveOrder
  simp only
  split
  · exact ((Keeps.withAdu b _).trans (raise_keeps e _ _)).trans (takeAxisFault_keeps e _ _)
  · split
    · exact Keeps.withAdu b _
    · exact (Keeps.withAdu b _).trans (claimArrives_keeps e _ _)

theorem orderMove_keeps (e : Site) (r : MoveRef) (m : Move) (b : Blocks) : b.Keeps (orderMove e r m b) :=
  (Keeps.withRsq b _).trans (takeMoveOrder_keeps e _ _)

theorem orderPointMove_keeps (e : Site) (b : Blocks) : b.Keeps (orderPointMove e b) := by
  unfold orderPointMove
  split
  · exact Keeps.refl b
  · split
    · exact (Keeps.withRsq b _).trans (orderMove_keeps e _ _ _)
    · exact Keeps.refl b

theorem orderViewMove_keeps (e : Site) (b : Blocks) : b.Keeps (orderViewMove e b) := by
  unfold orderViewMove
  split
  · exact Keeps.refl b
  · split
    · exact (Keeps.withRsq b _).trans (orderMove_keeps e _ _ _)
    · exact Keeps.refl b

theorem startCapture_keeps (e : Site) (b : Blocks) : b.Keeps (startCapture e b) := by
  unfold startCapture
  split
  · exact Keeps.refl b
  · split
    · exact (Keeps.withRsq b _).trans (orderCapture_keeps e _ _ _)
    · exact Keeps.refl b

/-! ### The flow of points -/

theorem flowIndent_keeps (e : Site) (b : Blocks) : b.Keeps (flowIndent e b) := by
  unfold flowIndent
  split
  · exact Keeps.refl b
  · refine Keeps.trans ?_ (orderPointMove_keeps e _)
    split
    · exact Keeps.withRsq b _
    · exact Keeps.refl b

theorem flowView_keeps (e : Site) (b : Blocks) : b.Keeps (flowView e b) := by
  unfold flowView
  split
  · exact Keeps.refl b
  · exact (((enterLast_keeps e b).trans (startCapture_keeps e _)).trans (Keeps.withRsq _ _)).trans
      (orderViewMove_keeps e _)

theorem beginPhase_keeps (e : Site) (p : GroupPhase) (g : Group) (b : Blocks) : b.Keeps (beginPhase e p g b) := by
  cases p
  · simp only [beginPhase]
    split
    · exact (Keeps.withRsq b _).trans (flowIndent_keeps e _)
    · exact (Keeps.withRsq b _).trans (orderMove_keeps e _ _ _)
  · simp only [beginPhase]
    split
    · exact (Keeps.withRsq b _).trans (flowView_keeps e _)
    · exact (Keeps.withRsq b _).trans (orderMove_keeps e _ _ _)

theorem formGroup_keeps (e : Site) (b : Blocks) : b.Keeps (formGroup e b) := by
  unfold formGroup
  split
  · exact (Keeps.withRsq b _).trans (raise_keeps e _ _)
  · exact (Keeps.withRsq b _).trans (beginPhase_keeps e _ _ _)

theorem stopRun_keeps (e : Site) (b : Blocks) : b.Keeps (stopRun e b) := by
  unfold stopRun
  split <;> exact (Keeps.withRsq b _).trans (raise_keeps e _ _)

theorem finishGroup_keeps (e : Site) (b : Blocks) : b.Keeps (finishGroup e b) := by
  unfold finishGroup
  simp only
  have h := (Keeps.withRsq b { b.rsq with group := none, phase := none }).trans (raise_keeps e .groupDone _)
  split
  · exact h.trans (formGroup_keeps e _)
  · exact h.trans (stopRun_keeps e _)

theorem advance_keeps (e : Site) (b : Blocks) : b.Keeps (advance e b) := by
  unfold advance
  split
  · simp only
    have h := flowIndent_keeps e b
    split
    · split
      · exact h.trans (finishGroup_keeps e _)
      · exact h.trans (beginPhase_keeps e _ _ _)
    · exact h
  · simp only
    have h := flowView_keeps e b
    split
    · exact h.trans (finishGroup_keeps e _)
    · exact h
  · exact Keeps.refl b

/-- The collection keeps all of it in every phase but RESETTING. -/
theorem collect_keeps (e : Site) (b : Blocks) (h : b.phase ≠ .resetting) : b.Keeps (collect e b) := by
  unfold collect
  split
  · simp only [Blocks.withRsq_phase, h, if_false]
    exact (Keeps.withRsq b _).trans (stopRun_keeps e _)
  · exact Keeps.refl b

theorem conclude_keeps (e : Site) (b : Blocks) : b.Keeps (conclude e b) :=
  (settleLines_keeps e b).trans (grantPort_keeps _)

/-- The end of an event keeps all of it in every phase but RESETTING. -/
theorem finish_keeps (e : Site) (b : Blocks) (h : b.phase ≠ .resetting) : b.Keeps (finish e b) := by
  have ha := advance_keeps e b
  have hc := collect_keeps e (advance e b) (by rw [ha.phase]; exact h)
  exact (ha.trans hc).trans (conclude_keeps e _)

end Sys2Proof.Machine
end

