-- ==== Sys2Proof/Laws/Memory.lean ====
section
/-! SUPPORT. The bank memory: every operation keeps the canonical form, and a read after a write. -/

namespace Sys2Proof.Machine

theorem Memory.wfFrom_mono {lo lo' : Nat} (h : lo' ≤ lo) {m : Memory} (w : Memory.wfFrom lo m = true) :
    Memory.wfFrom lo' m = true := by
  cases m with
  | nil => rfl
  | cons c rest =>
    simp only [Memory.wfFrom, Bool.and_eq_true, decide_eq_true_eq] at w ⊢
    exact ⟨⟨h.trans w.1.1, w.1.2⟩, w.2⟩

/-- A filtered canonical memory is canonical. -/
theorem Memory.wfFrom_filter (p : Host.Cell → Bool) {lo : Nat} {m : Memory} (w : Memory.wfFrom lo m = true) :
    Memory.wfFrom lo (m.filter p) = true := by
  induction m generalizing lo with
  | nil => rfl
  | cons c rest ih =>
    simp only [Memory.wfFrom, Bool.and_eq_true, decide_eq_true_eq] at w
    rw [List.filter_cons]
    split
    · simp only [Memory.wfFrom, Bool.and_eq_true, decide_eq_true_eq]
      exact ⟨w.1, ih w.2⟩
    · exact Memory.wfFrom_mono (by omega) (ih w.2)

/-- The cells of a run are canonical from its base on, and end before its end. -/
theorem Memory.wfFrom_cells (base : Nat) (bytes : List Byte) : Memory.wfFrom base (Memory.cells base bytes) = true := by
  induction bytes generalizing base with
  | nil => rfl
  | cons b rest ih =>
    unfold Memory.cells
    split
    · exact Memory.wfFrom_mono (Nat.le_succ base) (ih (base + 1))
    · rename_i h
      simp only [Memory.wfFrom, Bool.and_eq_true, decide_eq_true_eq]
      exact ⟨⟨Nat.le_refl base, h⟩, ih (base + 1)⟩

theorem Memory.cells_lt {base : Nat} {bytes : List Byte} {c : Host.Cell} (h : c ∈ Memory.cells base bytes) :
    base ≤ c.1 ∧ c.1 < base + bytes.length := by
  induction bytes generalizing base with
  | nil => simp [Memory.cells] at h
  | cons b rest ih =>
    unfold Memory.cells at h
    simp only [List.length_cons]
    split at h
    · have := ih h; omega
    · rcases List.mem_cons.mp h with rfl | h
      · exact ⟨Nat.le_refl _, by omega⟩
      · have := ih h; omega

/-- Two canonical memories side by side, the first all below `mid`. -/
theorem Memory.wfFrom_append {lo mid : Nat} {m n : Memory} (hm : Memory.wfFrom lo m = true)
    (hb : ∀ c ∈ m, c.1 < mid) (hl : lo ≤ mid) (hn : Memory.wfFrom mid n = true) :
    Memory.wfFrom lo (m ++ n) = true := by
  induction m generalizing lo with
  | nil => exact Memory.wfFrom_mono hl hn
  | cons c rest ih =>
    simp only [List.cons_append, Memory.wfFrom, Bool.and_eq_true, decide_eq_true_eq] at hm ⊢
    have hc := hb c (List.mem_cons_self ..)
    exact ⟨hm.1, ih hm.2 (fun d hd => hb d (List.mem_cons_of_mem _ hd)) (by omega)⟩

/-- Cells that all stand at or above `k` are canonical from `k`. -/
theorem Memory.wfFrom_above {lo k : Nat} {m : Memory} (w : Memory.wfFrom lo m = true) (h : ∀ c ∈ m, k ≤ c.1) :
    Memory.wfFrom k m = true := by
  cases m with
  | nil => rfl
  | cons c rest =>
    simp only [Memory.wfFrom, Bool.and_eq_true, decide_eq_true_eq] at w ⊢
    exact ⟨⟨h c (List.mem_cons_self ..), w.1.2⟩, w.2⟩

/-- A write keeps the canonical form. -/
theorem Memory.wf_writeRun {m : Memory} (w : m.wf = true) (base : Nat) (bytes : List Byte) :
    (m.writeRun base bytes).wf = true := by
  unfold Memory.wf Memory.writeRun at *
  have above : Memory.wfFrom (base + bytes.length) (m.filter fun c => decide (base + bytes.length ≤ c.1)) = true :=
    Memory.wfFrom_above (Memory.wfFrom_filter _ w) (by intro c hc; simpa using (List.mem_filter.mp hc).2)
  have mid : Memory.wfFrom base
      (Memory.cells base bytes ++ m.filter fun c => decide (base + bytes.length ≤ c.1)) = true :=
    Memory.wfFrom_append (Memory.wfFrom_cells base bytes) (fun c hc => (Memory.cells_lt hc).2) (by omega) above
  rw [List.append_assoc]
  exact Memory.wfFrom_append (Memory.wfFrom_filter _ w)
    (by intro c hc; simpa using (List.mem_filter.mp hc).2) (Nat.zero_le _) mid

theorem Memory.read_append_of_lt {m n : Memory} {a mid : Nat} (hb : ∀ c ∈ m, c.1 < mid) (ha : mid ≤ a) :
    Memory.read (m ++ n) a = Memory.read n a := by
  induction m with
  | nil => rfl
  | cons c rest ih =>
    have hc := hb c (List.mem_cons_self ..)
    simp only [List.cons_append, Memory.read]
    rw [if_neg (by omega)]
    exact ih fun d hd => hb d (List.mem_cons_of_mem _ hd)

theorem Memory.read_append_of_none {m n : Memory} {a : Nat} (h : ∀ c ∈ n, c.1 ≠ a) :
    Memory.read (m ++ n) a = Memory.read m a := by
  induction m with
  | nil =>
    induction n with
    | nil => rfl
    | cons c rest ih =>
      simp only [List.nil_append, Memory.read] at ih ⊢
      rw [if_neg (h c (List.mem_cons_self ..))]
      exact ih fun d hd => h d (List.mem_cons_of_mem _ hd)
  | cons c rest ih =>
    simp only [List.cons_append, Memory.read, ih]

theorem Memory.read_filter {m : Memory} {p : Host.Cell → Bool} {a : Nat} (h : ∀ c : Host.Cell, c.1 = a → p c = true) :
    Memory.read (m.filter p) a = Memory.read m a := by
  induction m with
  | nil => rfl
  | cons c rest ih =>
    rw [List.filter_cons]
    by_cases hc : c.1 = a
    · rw [if_pos (h c hc)]; simp [Memory.read, hc]
    · split <;> simp [Memory.read, hc, ih]

theorem Memory.read_cells (base : Nat) (bytes : List Byte) (k : Nat) (hk : k < bytes.length) :
    Memory.read (Memory.cells base bytes) (base + k) = bytes[k] := by
  induction bytes generalizing base k with
  | nil => simp at hk
  | cons b rest ih =>
    unfold Memory.cells
    cases k with
    | zero =>
      split
      · rename_i h
        have : ∀ c ∈ Memory.cells (base + 1) rest, c.1 ≠ base := fun c hc => by
          have := Memory.cells_lt hc; omega
        have e := Memory.read_append_of_none (m := []) this
        simp only [List.nil_append] at e
        simp [e, Memory.read, h]
      · simp [Memory.read]
    | succ j =>
      have hj : j < rest.length := by simpa using hk
      have e := ih (base + 1) j hj
      have ea : base + (j + 1) = base + 1 + j := by omega
      split
      · simpa [ea] using e
      · simp only [Memory.read]
        rw [if_neg (by omega)]
        simpa [ea] using e

/-- A byte inside a written run reads as written. -/
theorem Memory.read_writeRun_inside (m : Memory) (base : Nat) (bytes : List Byte) (k : Nat) (hk : k < bytes.length) :
    Memory.read (m.writeRun base bytes) (base + k) = bytes[k] := by
  unfold Memory.writeRun
  rw [Memory.read_append_of_none, Memory.read_append_of_lt (mid := base), Memory.read_cells]
  · intro c hc; simpa using (List.mem_filter.mp hc).2
  · omega
  · intro c hc
    have : base + bytes.length ≤ c.1 := by simpa using (List.mem_filter.mp hc).2
    omega

/-- A byte outside a written run reads as before. -/
theorem Memory.read_writeRun_outside (m : Memory) (base : Nat) (bytes : List Byte) (a : Nat)
    (ha : a < base ∨ base + bytes.length ≤ a) : Memory.read (m.writeRun base bytes) a = Memory.read m a := by
  unfold Memory.writeRun
  rcases ha with ha | ha
  · rw [Memory.read_append_of_none, Memory.read_append_of_none, Memory.read_filter]
    · intro c hc; simp [hc, ha]
    · intro c hc; have := Memory.cells_lt hc; omega
    · intro c hc
      have : base + bytes.length ≤ c.1 := by simpa using (List.mem_filter.mp hc).2
      omega
  · rw [Memory.read_append_of_lt (mid := base + bytes.length), Memory.read_filter]
    · intro c hc; simp [hc, ha]
    · intro c hc
      rcases List.mem_append.mp hc with h | h
      · have : c.1 < base := by simpa using (List.mem_filter.mp h).2
        omega
      · exact (Memory.cells_lt h).2
    · exact ha

end Sys2Proof.Machine
end

