-- ==== Sys2Proof/Laws/Finish.lean ====
section
/-! SUPPORT. What the end of an event keeps in every station phase, the RESETSTN clearing included. -/

namespace Sys2Proof.Machine

/-- Every range invariant that holds of `b` holds of `b'`. -/
structure Blocks.Preserves (b b' : Blocks) : Prop where
  link : b.LinkOk → b'.LinkOk
  queue : b.bcu.QueueOk → b'.bcu.QueueOk
  claims : b.bcu.ClaimsOk → b'.bcu.ClaimsOk
  table : b.rsq.TableOk → b'.rsq.TableOk
  load : b.ldu.Ok → b'.ldu.Ok
  image : b.riu.Ok → b'.riu.Ok
  reports : b.rpu.Ok → b'.rpu.Ok

theorem Blocks.Preserves.refl (b : Blocks) : b.Preserves b :=
  ⟨id, id, id, id, id, id, id⟩

theorem Blocks.Preserves.trans {b c d : Blocks} (h : b.Preserves c) (k : c.Preserves d) : b.Preserves d :=
  ⟨fun w => k.link (h.link w), fun w => k.queue (h.queue w), fun w => k.claims (h.claims w),
    fun w => k.table (h.table w), fun w => k.load (h.load w), fun w => k.image (h.image w),
    fun w => k.reports (h.reports w)⟩

/-- A table with the same plan parts is as good. -/
theorem Rsq.TableOk.of_plans {r r' : Rsq} (h : r.TableOk) (e : r'.plans = r.plans) : r'.TableOk := by
  have hl : r'.points.length = r.points.length := by
    have := congrArg List.length e
    simpa [Rsq.plans] using this
  have hs : r'.points.map (·.plan.seq) = r.points.map (·.plan.seq) := by
    have := congrArg (List.map (·.seq)) e
    simpa [Rsq.plans, List.map_map, Function.comp_def] using this
  exact ⟨by rw [hl]; exact h.1, by rw [hs]; exact h.2⟩

theorem Bcu.QueueOk.of_tables {c c' : Bcu} (h : c.QueueOk) (hp : c'.peers = c.peers) (hq : c'.benchQueue = c.benchQueue) :
    c'.QueueOk := by
  unfold Bcu.QueueOk Bcu.entryState at *
  rw [hp, hq]
  exact h

/-- Whatever the pipeline keeps is preserved. -/
theorem Blocks.Keeps.preserves {b b' : Blocks} (k : b.Keeps b') : b.Preserves b' where
  link := by
    rintro ⟨h1, h2, h3, h4⟩
    refine ⟨by rw [k.recv]; exact h1, by rw [k.placed, k.reserved]; exact h2, ?_, by rw [k.resetSender, k.phase]; exact h4⟩
    rw [k.reserved, h3]
    unfold Blocks.owed
    rw [k.readout, k.resetSender]
  queue := fun h => h.of_tables k.peers k.benchQueue
  claims := k.claims
  table := fun h => h.of_plans k.plans
  load := k.load
  image := by
    rintro ⟨h1, h2, h3, h4, h5⟩
    refine ⟨?_, by rw [k.lamp]; exact h2, by rw [k.counter]; exact h3, by rw [k.curRow]; exact h4,
      by rw [k.curCol]; exact h5⟩
    rcases k.rows with e | e
    · rw [e]; exact h1
    · rw [e]; simp
  reports := k.reports

theorem Rpu.Ok.reset : Rpu.Ok Rpu.reset := by
  constructor <;> intro i <;> simp [Rpu.reset]

/-- The RESETSTN clearing of a station that has its RESETSTN in hand. -/
theorem clearStation_preserves (b : Blocks) (hp : b.phase = .resetting) : b.Preserves (clearStation b) where
  link := by
    rintro ⟨h1, h2, h3, h4⟩
    obtain ⟨sender, hs⟩ := Option.isSome_iff_exists.mp (h4.mpr hp)
    have ho : b.owed = b.riu.readout.isSome.toNat + 1 := by simp [Blocks.owed, hs]
    have hrecv : b.lki.detachResult.recv = b.lki.recv := by unfold Lki.detachResult; split <;> rfl
    have hplaced : b.lki.detachResult.placed = b.lki.placed := by unfold Lki.detachResult; split <;> rfl
    have hres : b.lki.detachResult.reserved = b.lki.reserved := by unfold Lki.detachResult; split <;> rfl
    have hc : clearStation b = { b with
        phase := .ready, rsq := Rsq.reset, riu := b.riu.clear, egu := Egu.reset, ggu := none, rpu := b.rpu.clear
        resetSender := none
        lki := b.lki.detachResult.answerReserved sender [BitVec.ofNat 8 ReqCode.resetstn.toByte, AnswerCode.done.code] } := by
      unfold clearStation answerReset
      simp only [hs]
    rw [hc]
    refine ⟨?_, ?_, ?_, by simp⟩
    · show b.lki.detachResult.recv.length ≤ 4
      rw [hrecv]; exact h1
    · show (b.lki.detachResult.placed ++ [_]).length + (b.lki.detachResult.reserved - 1) ≤ 6
      rw [hplaced, hres, List.length_append, List.length_singleton]
      omega
    · show b.lki.detachResult.reserved - 1 = b.riu.readout.isSome.toNat + 0
      rw [hres]
      omega
  queue := fun h => by unfold clearStation answerReset; split <;> exact h
  claims := fun h => by unfold clearStation answerReset; split <;> exact h
  table := fun _ => by
    have : (clearStation b).rsq = Rsq.reset := by unfold clearStation answerReset; split <;> rfl
    rw [this]; exact ⟨by simp [Rsq.reset], by simp [Rsq.reset]⟩
  load := fun h => by unfold clearStation answerReset; split <;> exact h
  image := fun h => by
    have : (clearStation b).riu = b.riu.clear := by unfold clearStation answerReset; split <;> rfl
    rw [this]
    exact ⟨by simp [Riu.clear], h.2.1, h.2.2.1, by simp [Riu.clear], by simp [Riu.clear]⟩
  reports := fun _ => by
    have : (clearStation b).rpu = Rpu.reset := by unfold clearStation answerReset; split <;> rfl
    rw [this]; exact Rpu.Ok.reset

theorem collect_preserves (e : Site) (b : Blocks) : b.Preserves (collect e b) := by
  by_cases hp : b.phase = .resetting
  · unfold collect
    split
    · simp only [Blocks.withRsq_phase, hp, if_true]
      exact ((Blocks.Keeps.withRsq b b.rsq.collect).preserves).trans (clearStation_preserves _ hp)
    · exact Blocks.Preserves.refl b
  · exact (collect_keeps e b hp).preserves

/-- The end of an event preserves every range invariant, in every station phase. -/
theorem finish_preserves (e : Site) (b : Blocks) : b.Preserves (finish e b) :=
  ((advance_keeps e b).preserves.trans (collect_preserves e _)).trans (conclude_keeps e _).preserves

end Sys2Proof.Machine
end

