-- ==== Sys2Proof/Laws/Busy.lean ====
section
/-! SUPPORT. What the end of an event does while the pipeline waits: with NOW at work it grants the port and fills NEXT, with a
move in flight it leaves the axes, the load unit and the edge unit alone; the stuck watches that agree with their lines stay. -/

namespace Sys2Proof.Machine

/-- A watch that agrees with its line follows it unchanged. -/
theorem StuckWatch.follow_of_ok (w : StuckWatch) (now : Stamp) (timing sensed suspect : Bool)
    (hs : suspect = true → sensed = true) (h1 : w.stuck = true → sensed = true ∧ w.timer = none)
    (h2 : w.stuck = false → (w.timer.isSome = true ↔ timing = true ∧ suspect = true)) :
    w.follow now timing sensed suspect = w := by
  obtain ⟨timer, stuck⟩ := w
  unfold StuckWatch.follow
  cases stuck
  · cases timer <;> cases sensed <;> cases suspect <;> cases timing <;> simp_all [StuckWatch.off]
  · have := h1 rfl
    simp_all

theorem conditionEdge_same (e : Site) (n : Notice) (x : Bool) (b : Blocks) : conditionEdge e n x x b = b := by
  unfold conditionEdge
  cases x <;> simp

theorem Bcu.suspect_sensed (c : Bcu) (l : BenchLine) (h : c.suspect l = true) : c.sensed l = true := by
  unfold Bcu.suspect at h
  simp only [Bool.and_eq_true] at h
  exact h.1

/-- Watches that agree with their lines are left as they are. -/
theorem settleLines_of_linesOk (e : Site) {b : Blocks} (h : b.LinesOk) : settleLines e b = b := by
  have hq := (h .quiet)
  have hm := (h .motion)
  unfold settleLines
  simp only
  have e1 := StuckWatch.follow_of_ok b.bcu.quietStuck e.now (b.phase != .unconfigured) (b.bcu.sensed .quiet)
    (b.bcu.suspect .quiet) (b.bcu.suspect_sensed .quiet) hq.1 hq.2
  have e2 := StuckWatch.follow_of_ok b.bcu.motionStuck e.now (b.phase != .unconfigured) (b.bcu.sensed .motion)
    (b.bcu.suspect .motion) (b.bcu.suspect_sensed .motion) hm.1 hm.2
  rw [e1, e2]
  exact conditionEdge_same e .lineStuck b.bcu.lineStuck b

/-- Agreement depends on the coordination unit and the station phase alone. -/
theorem Blocks.LinesOk.of_bcu {b b' : Blocks} (h : b.LinesOk) (hb : b'.bcu = b.bcu) (hp : b'.phase = b.phase) : b'.LinesOk := by
  intro l
  have := h l
  rw [hb, hp]
  exact this

/-- With NOW at work the pipeline only fills NEXT. -/
theorem advance_of_busy (e : Site) {b : Blocks} (h : b.NowBusy) : advance e b = b ∨ advance e b = b.withRsq b.rsq.fillNext := by
  have hn : ∃ n, b.rsq.now = some n ∧ ∀ v, n.cond ≠ .captured v := by
    rcases h with ⟨q, hq, _⟩ | ⟨q, hq, _⟩
    · exact ⟨_, hq, by simp⟩
    · exact ⟨_, hq, by simp⟩
  obtain ⟨n, hn, hc⟩ := hn
  have order : ∀ r : Rsq, r.now = some n → ∀ b' : Blocks, b'.rsq = r →
      orderPointMove e b' = b' ∧ orderViewMove e b' = b' := by
    intro r hr b' hb
    constructor
    · unfold orderPointMove
      split
      · rfl
      · simp [hb, hr]
    · unfold orderViewMove
      split
      · rfl
      · rw [if_neg]
        rintro ⟨h1, -⟩
        rw [hb] at h1
        unfold Rsq.nowIdle at h1
        obtain ⟨q, c⟩ := n
        cases c <;> simp_all
  have hfill : b.rsq.fillNext.now = some n := by unfold Rsq.fillNext; split <;> exact hn
  have notOver : ∀ r : Rsq, r.now = some n → r.indentOver = false ∧ r.viewOver = false := by
    intro r hr
    simp [Rsq.indentOver, Rsq.viewOver, hr]
  unfold advance
  split
  · have hf : flowIndent e b = b ∨ flowIndent e b = b.withRsq b.rsq.fillNext := by
      unfold flowIndent
      split
      · exact Or.inl rfl
      · split
        · exact Or.inr (order _ hfill _ rfl).1
        · exact Or.inl (order _ hn _ rfl).1
    have hi : (flowIndent e b).rsq.indentOver = false := by
      rcases hf with k | k <;> rw [k]
      · exact (notOver _ hn).1
      · exact (notOver _ hfill).1
    simp only [hi]
    simpa using hf
  · have hf : flowView e b = b ∨ flowView e b = b.withRsq b.rsq.fillNext := by
      unfold flowView
      split
      · exact Or.inl rfl
      · have hl : enterLast e b = b := by
          unfold enterLast
          split
          · rename_i q v hq _
            rw [hn] at hq
            exact absurd (congrArg NowSlot.cond (Option.some.inj hq)) (hc v)
          · rfl
        have hs : startCapture e b = b := by
          unfold startCapture
          split
          · rfl
          · simp [hn]
        rw [hl, hs]
        exact Or.inr (order _ hfill _ rfl).2
    have hi : (flowView e b).rsq.viewOver = false := by
      rcases hf with k | k <;> rw [k]
      · exact (notOver _ hn).2
      · exact (notOver _ hfill).2
    simp only [hi]
    simpa using hf
  · exact Or.inl rfl

/-- With NOW at work nothing is collected. -/
theorem collect_of_busy (e : Site) {b : Blocks} (h : b.NowBusy) : collect e b = b := by
  unfold collect
  rw [if_neg]
  rintro ⟨-, hf⟩
  unfold nothingInFlight at hf
  rcases h with ⟨q, -, hp⟩ | ⟨q, -, hp⟩
  · simp_all
  · simp_all

/-- The end of an event with NOW at work. -/
theorem finish_of_busy (e : Site) {b : Blocks} (h : b.NowBusy) (hl : b.LinesOk) : b.FlowsTo (finish e b) := by
  unfold finish conclude Blocks.FlowsTo
  simp only
  rcases advance_of_busy e h with k | k <;> rw [k]
  · rw [collect_of_busy e h, settleLines_of_linesOk e hl]
    exact Or.inl rfl
  · have h' : (b.withRsq b.rsq.fillNext).NowBusy := by
      have : b.rsq.fillNext.now = b.rsq.now := by unfold Rsq.fillNext; split <;> rfl
      unfold Blocks.NowBusy
      simp only [Blocks.withRsq_rsq, Blocks.withRsq_ldu, Blocks.withRsq_riu, this]
      exact h
    have hl' : (b.withRsq b.rsq.fillNext).LinesOk := hl.of_bcu rfl rfl
    rw [collect_of_busy e h', settleLines_of_linesOk e hl']
    exact Or.inr rfl

/-- The end of an event while the pipeline waits. -/
theorem finish_of_waits (e : Site) {b : Blocks} (h : b.Waits) (hl : b.LinesOk) : b.FlowsTo (finish e b) := by
  rcases h with h | ⟨hg, hd⟩
  · exact finish_of_busy e h hl
  · have ha : advance e b = b := by
      unfold advance
      simp only [hg]
    have hc : collect e b = b := by
      unfold collect
      rw [if_neg fun w => by simp [hd] at w]
    left
    unfold finish conclude
    simp only
    rw [ha, hc, settleLines_of_linesOk e hl]
    rfl

/-! ### A move in flight -/

/-- `b'` keeps the axes, the load unit, the edge unit and the move in flight of `b`, and its own coordination state. -/
structure Blocks.MovesOn (b b' : Blocks) : Prop where
  keeps : b.Keeps b'
  adu : b'.adu = b.adu
  ldu : b'.ldu = b.ldu
  egu : b'.egu = b.egu
  moving : b'.rsq.moveInFlight = b.rsq.moveInFlight
  own : b.bcu.own ≠ .idle → b'.bcu.own = b.bcu.own
  settle : b.bcu.own ≠ .idle → b'.bcu.settle = b.bcu.settle
  sense : b.bcu.own ≠ .idle → b'.bcu.sense = b.bcu.sense

theorem Blocks.MovesOn.refl (b : Blocks) : b.MovesOn b :=
  ⟨Blocks.Keeps.refl b, rfl, rfl, rfl, rfl, fun _ => rfl, fun _ => rfl, fun _ => rfl⟩

theorem Blocks.MovesOn.trans {b c d : Blocks} (h : b.MovesOn c) (k : c.MovesOn d) : b.MovesOn d :=
  ⟨h.keeps.trans k.keeps, k.adu.trans h.adu, k.ldu.trans h.ldu, k.egu.trans h.egu, k.moving.trans h.moving,
    fun w => (k.own (by rw [h.own w]; exact w)).trans (h.own w),
    fun w => (k.settle (by rw [h.own w]; exact w)).trans (h.settle w),
    fun w => (k.sense (by rw [h.own w]; exact w)).trans (h.sense w)⟩

theorem Blocks.MovesOn.after {b c d : Blocks} (k : c.MovesOn d) (h : b.MovesOn c) : b.MovesOn d :=
  h.trans k

theorem conditionEdge_movesOn (e : Site) (n : Notice) (x y : Bool) (b : Blocks) : b.MovesOn (conditionEdge e n x y b) := by
  refine ⟨conditionEdge_keeps e n x y b, ?_, ?_, ?_, ?_, ?_, ?_, ?_⟩ <;> unfold conditionEdge <;> repeat' split
  all_goals first | rfl | exact fun _ => rfl

theorem settleLines_movesOn (e : Site) (b : Blocks) : b.MovesOn (settleLines e b) := by
  have k := settleLines_keeps e b
  refine ⟨k, ?_, ?_, ?_, ?_, ?_, ?_, ?_⟩ <;> unfold settleLines conditionEdge <;> simp only <;> repeat' split
  all_goals first | rfl | exact fun _ => rfl

theorem claimArrives_movesOn (e : Site) (c : Claim) (b : Blocks) : b.MovesOn (claimArrives e c b) := by
  refine ⟨claimArrives_keeps e c b, ?_, ?_, ?_, ?_, ?_, ?_, ?_⟩
  all_goals
    unfold claimArrives
    simp only
    split
    · first | rfl | exact fun _ => rfl
    · split
      · first
          | (intro h; rename_i w; exact absurd w.1 h)
          | (unfold activateNext testEligible enterOwn placeState
             repeat' split
             all_goals rfl)
      · first | rfl | exact fun _ => rfl

theorem orderCapture_movesOn (e : Site) (p : Point) (k : SearchKind) (b : Blocks) : b.MovesOn (orderCapture e p k b) := by
  have seek : ∀ b : Blocks, b.MovesOn (seekBank e b) := by
    intro b
    have k := seekBank_keeps e b
    unfold seekBank at k ⊢
    split at k
    · exact Blocks.MovesOn.refl b
    · split at k
      · exact ⟨k, rfl, rfl, rfl, rfl, fun _ => rfl, fun _ => rfl, fun _ => rfl⟩
      · rename_i c _ _ n _
        refine Blocks.MovesOn.after (claimArrives_movesOn e _ _) ⟨?_, rfl, rfl, rfl, rfl, fun _ => rfl, fun _ => rfl, fun _ => rfl⟩
        exact ⟨rfl, rfl, rfl, rfl, rfl, rfl, rfl, rfl, rfl, rfl, rfl, rfl, rfl, rfl, rfl, rfl, rfl, rfl, rfl, rfl, rfl,
          Or.inl rfl, rfl, rfl, id, id, id⟩
  have first : ∀ c, b.MovesOn (b.withRiu { b.riu with capture := c }) := fun c =>
    ⟨Blocks.Keeps.capture b c, rfl, rfl, rfl, rfl, fun _ => rfl, fun _ => rfl, fun _ => rfl⟩
  unfold orderCapture
  simp only
  split
  · exact first _
  · exact (first _).trans (seek _)

/-- The sequencer's part replaced, its plans, owner and move in flight as they were. -/
theorem Blocks.MovesOn.withRsq (b : Blocks) (v : Rsq) (hp : v.plans = b.rsq.plans) (ho : v.owner = b.rsq.owner)
    (hm : v.moveInFlight = b.rsq.moveInFlight) : b.MovesOn (b.withRsq v) :=
  ⟨Blocks.Keeps.withRsq b v hp ho, rfl, rfl, rfl, hm, fun _ => rfl, fun _ => rfl, fun _ => rfl⟩

theorem fillNext_movesOn (b : Blocks) : b.MovesOn (b.withRsq b.rsq.fillNext) :=
  Blocks.MovesOn.withRsq b _ (by simp) (by simp) (by unfold Rsq.fillNext; split <;> rfl)

/-- With a move in flight the pipeline orders no other. -/
theorem advance_movesOn (e : Site) {b : Blocks} (h : b.rsq.moveInFlight ≠ none) : b.MovesOn (advance e b) := by
  have point : ∀ b : Blocks, b.rsq.moveInFlight ≠ none → orderPointMove e b = b := by
    intro b h
    unfold orderPointMove
    split
    · rfl
    · rw [if_neg fun w => h w.2.1]
  have view : ∀ b : Blocks, b.rsq.moveInFlight ≠ none → orderViewMove e b = b := by
    intro b h
    unfold orderViewMove
    split
    · rfl
    · rw [if_neg fun w => h w.2.1]
  have hi : b.MovesOn (flowIndent e b) := by
    unfold flowIndent
    split
    · exact Blocks.MovesOn.refl b
    · split
      · have k := fillNext_movesOn b
        rw [point _ (by rw [k.moving]; exact h)]
        exact k
      · rw [point _ h]
        exact Blocks.MovesOn.refl b
  have hv : b.MovesOn (flowView e b) := by
    unfold flowView
    split
    · exact Blocks.MovesOn.refl b
    · have h1 : b.MovesOn (enterLast e b) := by
        refine ⟨enterLast_keeps e b, ?_, ?_, ?_, ?_, ?_, ?_, ?_⟩ <;> unfold enterLast <;> split
        all_goals first | rfl | exact fun _ => rfl
      have h2 : (enterLast e b).MovesOn (startCapture e (enterLast e b)) := by
        unfold startCapture
        split
        · exact Blocks.MovesOn.refl _
        · split
          · exact (orderCapture_movesOn e _ _ _).after (Blocks.MovesOn.withRsq _ _
              (Rsq.modify_withState_plans _ _ _) rfl rfl)
          · exact Blocks.MovesOn.refl _
      have h3 := (h1.trans h2).trans (fillNext_movesOn _)
      simp only
      rw [view _ (by rw [h3.moving]; exact h)]
      exact h3
  unfold advance
  split
  · simp only
    rw [if_neg]
    · exact hi
    · rintro ⟨-, w⟩
      have : (flowIndent e b).rsq.moveInFlight ≠ none := by rw [hi.moving]; exact h
      unfold Rsq.indentOver at w
      cases hm : (flowIndent e b).rsq.moveInFlight <;> simp_all
  · simp only
    rw [if_neg]
    · exact hv
    · rintro ⟨-, w⟩
      have : (flowView e b).rsq.moveInFlight ≠ none := by rw [hv.moving]; exact h
      unfold Rsq.viewOver at w
      cases hm : (flowView e b).rsq.moveInFlight <;> simp_all
  · exact Blocks.MovesOn.refl b

/-- The end of an event with a move in flight. -/
theorem finish_movesOn (e : Site) {b : Blocks} (h : b.rsq.moveInFlight ≠ none) : b.MovesOn (finish e b) := by
  have ha := advance_movesOn e h
  have hc : collect e (advance e b) = advance e b := by
    unfold collect
    rw [if_neg]
    rintro ⟨-, w⟩
    have : (advance e b).rsq.moveInFlight ≠ none := by rw [ha.moving]; exact h
    unfold nothingInFlight at w
    cases hm : (advance e b).rsq.moveInFlight <;> simp_all
  unfold finish conclude
  simp only
  rw [hc]
  refine (ha.trans (settleLines_movesOn e _)).trans ?_
  exact ⟨grantPort_keeps _, rfl, rfl, rfl, rfl, fun _ => rfl, fun _ => rfl, fun _ => rfl⟩

end Sys2Proof.Machine
end

