-- ==== Sys2Proof/Laws/Reports.lean ====
section
/-! SUPPORT. What the Report Unit's operations do, said once: the cause of a flag, of a counter, and the end of a condition, as the
statements say them. -/

namespace Sys2Proof.Machine

/-- The cause of a flag, by the cases of R173. -/
theorem Rpu.raise_eq_raised (r : Rpu) (enables : Byte) (n : Notice) : r.raise enables n = r.raised enables n := by
  have bit : bitIf n.bit true = 1#8 <<< n.bit := by cases n <;> decide
  unfold Rpu.raise Rpu.raised Rpu.becamePending
  simp only [bit]
  by_cases h : r.isSet n = true <;> cases g : enables.getLsbD n.group <;> cases m : r.notice <;> simp_all

/-- The cause of a counter, by the cases of R174. -/
theorem Rpu.count_eq_counted (r : Rpu) (enables : Byte) (c : Counter) : r.count enables c = r.counted enables c := by
  unfold Rpu.count Rpu.counted
  simp only [Rpu.raise_eq_raised]
  by_cases h : 65535 ≤ r.counters[c.index]
  · rw [if_pos h, if_pos (Nat.lt_succ_of_le h)]
  · rw [if_neg h, if_neg (fun g => h (Nat.le_of_lt_succ g))]

/-- A block's cause of a flag. -/
theorem raise_eq (e : Site) (n : Notice) (b : Blocks) :
    raise e n b = b.withRpu (b.rpu.raised e.cfg.bench.enables n) := by
  rw [raise, Rpu.raise_eq_raised]

/-- A block's cause of a counter. -/
theorem count_eq (e : Site) (c : Counter) (b : Blocks) :
    count e c b = b.withRpu (b.rpu.counted e.cfg.bench.enables c) := by
  rw [count, Rpu.count_eq_counted]

/-- The end of a condition, by its edge selection (R172). -/
theorem conditionEdge_ends (e : Site) (n : Notice) (h : n = .peerLost ∨ n = .lineStuck) (b : Blocks) :
    conditionEdge e n true false b = b.withRpu (b.rpu.conditionEnds e.cfg.bench n) := by
  unfold conditionEdge Rpu.conditionEnds edgeBoth
  rcases h with rfl | rfl <;> simp [Notice.bit, raise_eq, Blocks.withRpu] <;> split <;> rfl

/-- The beginning of a condition. -/
theorem conditionEdge_begins (e : Site) (n : Notice) (b : Blocks) :
    conditionEdge e n false true b = b.withRpu (b.rpu.raised e.cfg.bench.enables n) := by
  simp [conditionEdge, raise_eq]

end Sys2Proof.Machine
end

