-- ==== Sys2Proof/Tests/Slice0.lean ====
section
/-! SUPPORT. The model's own tests: the well-formedness smoke, the worked numbers of the spec, one step each on small states;
and, for every obligation with hypotheses, one theorem that applies it at concrete values, clause by clause, with every
hypothesis discharged. -/

namespace Sys2Proof.Tests

-- One theorem after the other: threads that wait for earlier ones cost memory.
set_option Elab.async false

open Sys2Proof Sys2Proof.Machine

/-! ### Small states -/

/-- A configuration that passes R179. -/
def cfg : Settings :=
  { bench := { moveBudget := 2, settleMs := 100, silenceMs := 1000, stuckS := 5, sink := 15, enables := 63, edges := 3 }
    tools := ((Vector.replicate 6 ToolEntry.cleared).set 0 { ToolEntry.cleared with kind := .vickers }).set 2
      { ToolEntry.cleared with kind := .objective, scale := 500, focusStart := 9000 }
    load := { scaleFactor := 4096, contactThreshold := 20, releaseThreshold := 10, declareCount := 2, releaseCount := 2
              rampRate := 1000, band := 10, excursionLimit := 1, travelLimit := 8000, approachSpeed := 100 }
    image := { window := 16, threshold := 50, minRun := 4, lightLow := 40, lightHigh := 220, lightStep := 2, minEnergy := 0
               focusStep := 50, holdS := 10, asymmetry := 50, spacing := 25 }
    stage := { xMin := -500000, xMax := 500000, yMin := -500000, yMax := 500000 } }

/-- A station at stamp 100,000, READY and warm, with nothing to do. -/
def ready : State :=
  { State.reset with
    site := { station := 0, now := 100000, cfg := cfg }
    blk := { State.reset.blk with
      phase := .ready, lki := { Lki.reset with synced := true }, riu := { Riu.reset with warmup := none } } }

/-- The point `q` in state `st`. -/
def point (q : Seq) (st : PointState) : Point :=
  { plan := { seq := q, group := 1, x := 0, y := 0, indenter := 0, objective := 2, force := 1000, dwell := 100, edge := .outer
              low := some 200, high := some 300, origin := none }
    progress := { state := st, reason := none, recaptures := 0, rowRecaptures := 0, windowTop := 32, shiftX := 0, shiftY := 0 }
    indent := none, result := none }

/-- `ready` with other blocks. -/
def on (b : Blocks) : State := ready.withBlk b

/-- The blocks of `ready`. -/
abbrev blk : Blocks := ready.blk

/-- A request of station 3 at the head of the Receive Buffer. -/
def asked (payload : List Byte) (b : Blocks := blk) : State :=
  on { b with lki := { b.lki with recv := [{ sender := 3, payload := payload }] } }

/-- The coordination unit in an own state that its own entry announces, with the claims of `who`. -/
def bcuIn (o : OwnState) (a : Announce) (who : List Claimant) : Bcu :=
  { Bcu.reset 0 false false with
    own := o, claims := who.map fun w => { claimant := w, work := some 1 }
    peers := (Bcu.reset 0 false false).peers.set 0
      { announced := .heard a, run := some .running, work := some 1, stamp := some 99999 } }

/-- The command runs to a next state. -/
abbrev Runs (c : Instr) (s : State) : Prop := ∃ t, exec c s = .next t

/-- Lines that agree with idle watches. -/
theorem lines (b : Blocks) (h : b.bcu.quietStuck = StuckWatch.off ∧ b.bcu.motionStuck = StuckWatch.off
    ∧ b.bcu.suspect .quiet = false ∧ b.bcu.suspect .motion = false) : b.LinesOk := by
  obtain ⟨h1, h2, h3, h4⟩ := h
  intro l
  cases l
  · exact ⟨by simp [Bcu.watch, h1, StuckWatch.off], by simp [Bcu.watch, h1, h3, StuckWatch.off]⟩
  · exact ⟨by simp [Bcu.watch, h2, StuckWatch.off], by simp [Bcu.watch, h2, h4, StuckWatch.off]⟩

theorem rpuOk : Rpu.reset.Ok := by
  constructor <;> decide +kernel

/-! ### Well-formed commands -/

theorem test_stage_position_out_of_range : (Instr.axisStopped .stageX 500001).wellFormed = false := by decide
theorem test_focus_position_out_of_range : (Instr.axisStopped .focus (-1)).wellFormed = false := by decide
theorem test_stage_limit_is_well_formed : (Instr.axisStopped .stageY (-500000)).wellFormed = true := by decide
theorem test_ill_formed_position_runs : exec (.axisStopped .focus (-1)) ready = .next { ready with free := 1 } := rfl

/-! ### Numbers the spec works out -/

/-- The table of R153. -/
theorem test_hardness_table :
    [hardnessOf .vickers 9807 100000, hardnessOf .vickers 490 20000, hardnessOf .knoop 981 100000, hardnessOf .vickers 20000 5000]
      = [1855, 2316, 1423, 65535] := by decide +kernel

theorem test_verdict_at_its_limits :
    [verdictOf (some 200) (some 300) 199, verdictOf (some 200) (some 300) 200, verdictOf (some 200) (some 300) 300,
      verdictOf (some 200) (some 300) 301, verdictOf none none 7] = [.low, .pass, .pass, .high, .noLimit] := by decide

/-- A force of 16 equal samples of 10,000 scaled by 2^20 reads 10,000 counts (R90). -/
theorem test_force_word : rawForce (List.replicate 16 10000) 0 1048576 = 10000 := by decide +kernel

theorem test_dark_runs :
    qualifiedRuns 100 2 [200, 50, 60, 200, 50, 200, 0, 0] =
      [{ first := 1, last := 2, entry := 10, exit := 36 }, { first := 6, last := 7, entry := 88, exit := 4080 }] := by
  decide +kernel

theorem test_focus_heights :
    (Search.start .full 9000 50).heights = [8800, 8850, 8900, 8950, 9000, 9050, 9100, 9150, 9200]
      ∧ (Search.start .short 20 50).heights = [0, 20, 70] := by decide +kernel

/-- A bank address of the second bank's last pixel (R115). -/
theorem test_last_pixel : pixelAddress 1 255 255 = 131071 := rfl

theorem test_write_then_read :
    (Memory.writeRun [] 256 [1, 0, 2]).read 258 = 2 ∧ (Memory.writeRun [] 256 [1, 0, 2]).wf = true := by decide

/-- R60: WAITMOVE after MOVING goes to the front. -/
theorem test_bench_queue_front : benchQueueAfter [4, 5] 7 (.heard .moving) .waitMove = [7, 4, 5] := by decide

theorem test_frame_bits :
    (Frame.bits { sender := 3, kind := .ask, dest := 0, payload := [10] }).length = 45
      ∧ Frame.parse (Frame.bits { sender := 3, kind := .ask, dest := 0, payload := [10] })
          = some { sender := 3, kind := .ask, dest := 0, payload := [10] } := by decide +kernel

theorem test_reset_is_canonical : State.reset.mem.wf = true := rfl

/-- The row of spec 07's worked example: a stretch of it between light pixels. -/
def slicedRow : List Nat :=
  List.replicate 10 150 ++ [60, 70] ++ List.replicate 88 150 ++ [180, 130, 60, 40, 45, 90, 150] ++ List.replicate 42 150
    ++ [200, 80, 70, 85, 190] ++ List.replicate 102 150

theorem test_worked_row :
    (qualifiedRuns 100 3 slicedRow).map (fun r => (r.entry, r.exit)) = [(1622, 1682), (2397, 2434)]
      ∧ rowEdgeOf .outer (qualifiedRuns 100 3 slicedRow) = some { runs := 2, left := 1622, right := 2434 }
      ∧ rowEdgeOf .widest (qualifiedRuns 100 3 slicedRow) = some { runs := 2, left := 1622, right := 1682 }
      ∧ sharpness [180, 130, 60, 40, 45, 90, 150] = 250 := by decide +kernel

/-- The measurement record of point 31 of spec 08. -/
def measure31 : Measurement :=
  { seq := 31, bank := 1, tool := .vickers, scale := 250, revRow := false, windowTop := 32, force := 1001, low := some 2300
    high := some 2800, x := 184200, y := 52000, values := { bank := 1, stamp := 77, level := 32, height := 8400 }
    asymmetry := 50, spacing := 30 }

/-- Its bank's tables: a fleck at row 20, the block of rows 73 to 182 without row 140, the widest columns. -/
def tables31 : FrameResults :=
  { rows := Vector.ofFn fun i : Fin 256 =>
      if i.val = 20 then some { runs := 1, left := 10, right := 90 }
      else if i.val < 73 ∨ 182 < i.val ∨ i.val = 140 then none
      else if i.val = 127 then some { runs := 2, left := 1145, right := 2901 }
      else if i.val = 128 then some { runs := 2, left := 1142, right := 2898 }
      else some { runs := if 120 < i.val ∧ i.val < 131 then 2 else 1, left := 1500, right := 2500 }
    cols := Vector.ofFn fun i : Fin 256 =>
      if i.val = 126 then some { top := some 1163, bottom := some 2921 }
      else if i.val = 200 then some { top := some 1, bottom := some 4000 } else none
    peak := 200 }

theorem test_worked_measurement :
    measure measure31 tables31 [{ point 30 .done with plan := { (point 30 .done).plan with x := 183400, y := 52000 } }] =
      .done { dH := 27438, dV := 27469, hardness := 2511, verdict := .pass, asym := false, split := false, spacing := true
              offX := -3, offY := 0, stamp := 77, level := 32, height := 8400 } := by decide +kernel

/-- Point 32 of spec 08: rows 0 to 97, clipped at the top. -/
theorem test_worked_recentring :
    let b : Block := { first := 0, last := 97, count := 98, left := 1300, right := 2760, wide := 1000, split := 0 }
    recentringOf measure31 b = { top := some 0, dx := none, dy := some (-117) }
      ∧ recentringOf measure31 { b with last := 160 } = { top := some 0, dx := none, dy := some (-40) }
      ∧ Block.through { b with last := 255 } = true := by decide +kernel

/-- The RAMPSLOW limit, the tare and the band of point 31 in spec 05. -/
theorem test_worked_indent :
    rampSlowLimit { cfg.load with rampRate := 500 } 1000 24 = 49040 ∧ bandHalf { cfg.load with band := 20 } 1000 = 20
      ∧ overloadLevel 1000 = 1100
      ∧ windowMean (List.replicate 8 1200 ++ List.replicate 8 1201) = 1201 := by decide +kernel

/-! ### Obligations applied: the block as a whole -/

/-- A station with one command waiting. -/
def waiting (c : Instr) : State := { ready with pending := [c] }

theorem met_StepTakesTheFrontCommand (h : Obligations.StepTakesTheFrontCommand) :
    step (waiting .mediumFree) = exec .mediumFree ready ∧ step ready = .next ready :=
  ⟨(h .mediumFree [] (waiting .mediumFree)).1 rfl, (h .mediumFree [] ready).2 rfl⟩

theorem met_WellFormedCommandsRun (h : Obligations.WellFormedCommandsRun) :
    Runs (.axisStopped .focus 20001) ready ∧ ∃ t, exec (.axisStopped .focus 20000) ready = .next t ∧ t.free = 0 := by
  obtain ⟨t, e, -⟩ := h (.axisStopped .focus 20001) ready
  obtain ⟨u, f, a⟩ := h (.axisStopped .focus 20000) ready
  exact ⟨⟨t, e⟩, u, f, a (by decide)⟩

theorem met_CommandsKeepTheSite (h : Obligations.CommandsKeepTheSite) : ∀ t, exec .mediumFree ready = .next t →
    t.pending = [] ∧ t.site.station = 0 ∧ t.site.now = 100000 ∧ t.held = Settings.cleared := by
  intro t ht
  obtain ⟨a, b⟩ := h .mediumFree ready t ht
  obtain ⟨c, d, e⟩ := b (by simp)
  exact ⟨a, c, d (by simp), (e (Or.inl (by simp))).2.1⟩

/-- The bench's one row in the port: window row `n` of point 1's capture into bank 0. -/
def rowState (n : Nat) (kind : FrameKind) : Blocks :=
  { blk with
    bcu := bcuIn .quiet .quiet [.riu]
    rsq := { Rsq.reset with
      points := [point 1 .viewing], group := some { order := [1], indenter := 0, objective := 2 }, phase := some .view
      now := some { seq := 1, cond := .capturing }, stageAt := some 1, run := .running
      last := some { seq := 9, values := { bank := 1, stamp := 0, level := 0, height := 0 } } }
    riu := { blk.riu with
      port := .write true, rows := [{ number := n, pixels := List.replicate 256 100 }], camera := some 95000
      tags := blk.riu.tags.set 0 { BankTag.free with state := .target }
      rowCount := some (n + 1)
      capture := some
        { seq := 1, objective := 2, windowTop := 32, edge := .outer, search := .short, bank := some 0, cond := .framing
          abandon := false, stamp := 90000, arriving := true } }
    egu := { blk.egu with
      kind := some kind
      search := some
        { kind := .short, centre := 9000, heights := [8950, 9000, 9050], index := 0, scores := []
          decision := if kind = .final then .best 1 else .undecided } } }

theorem rowLines (n : Nat) (kind : FrameKind) : (rowState n kind).LinesOk :=
  lines _ ⟨rfl, rfl, rfl, rfl⟩

theorem met_PixelsChangeOnlyByARowWrite (h : Obligations.PixelsChangeOnlyByARowWrite) :
    (∀ t, exec .mediumFree ready = .next t → t.mem = [])
      ∧ (∀ t, exec .rowWriteComplete ready = .next t → t.mem = [])
      ∧ ∀ t, exec .rowWriteComplete (on (rowState 287 .search)) = .next t → t.mem.read 65535 = 100 := by
  refine ⟨fun t ht => (h _ _ _ ht).1 (by simp), fun t ht => (h _ _ _ ht).2.1 rfl (by decide +kernel), fun t ht => ?_⟩
  exact ((h _ _ _ ht).2.2 _ _ _ rfl rfl).2 255 (by decide +kernel)

/-- The invariants at `ready`. -/
theorem readyInvariants : ready.blk.LinkOk ∧ ready.blk.LinesOk ∧ ready.blk.bcu.ClaimsOk ∧ ready.blk.bcu.QueueOk
    ∧ ready.blk.rsq.TableOk ∧ ready.blk.ldu.Ok ∧ ready.blk.riu.Ok ∧ ready.blk.rpu.Ok :=
  ⟨⟨by decide, by decide, rfl, by decide⟩, lines _ ⟨rfl, rfl, by decide +kernel, by decide +kernel⟩, ⟨by decide, fun _ => rfl⟩,
    ⟨List.nodup_nil, by simp [ready, State.reset, Blocks.reset, Bcu.reset]⟩, ⟨by decide, by decide⟩,
    ⟨by decide, by decide, by decide, by decide⟩, ⟨by decide, by decide, by decide, by decide, by decide⟩, rpuOk⟩

/-- The indent part of a point that has been indented. -/
def aPart : IndentPart := { stamp := 5, mean := 1001, peak := 1010, excursions := 0, depth := 9 }

/-- Every slot at work: point 31 measured, 1 captured, the view move of 2 ordered. -/
def working : Blocks :=
  { blk with
    adu := { blk.adu with move := some (Move.toView 2 0 0 9000) }
    ggu := some measure31
    riu := { blk.riu with
      capture := some
        { seq := 1, objective := 2, windowTop := 32, edge := .outer, search := .short, bank := some 0, cond := .framing
          abandon := false, stamp := 90000, arriving := true }
      tags := (blk.riu.tags.set 0 { BankTag.free with state := .target }).set 1
        { BankTag.free with state := .measuring, owner := some 31, serial := some 1 } }
    rsq := { Rsq.reset with
      points := [{ point 1 .viewing with indent := some aPart }, { point 2 .indented with indent := some aPart },
        { point 31 .measuring with indent := some aPart }, point 40 .waiting]
      orderList := [40], group := some { order := [31, 1, 2], indenter := 0, objective := 2 }, phase := some .view
      next := some { seq := 2, cond := .travelling }, now := some { seq := 1, cond := .capturing }
      last := some { seq := 31, values := measure31.values }, moveInFlight := some (.point 2), run := .running } }

/-- The pipeline is in order there. -/
theorem workingOrder : working.PipelineOk := by
  have m : working.MoveOk (Move.toView 2 0 0 9000) :=
    ⟨by decide, rfl, by decide, 2, rfl, rfl, fun _ => Or.inr ⟨_, rfl, rfl, by decide⟩⟩
  refine ⟨by unfold Rsq.RecordsOk Rsq.TableOk Rsq.RecordOk; decide +kernel, ?_, ?_, ?_⟩
  · refine ⟨by decide, by decide, by decide, by decide +kernel, by decide, by decide +kernel, by decide, by decide, by decide⟩
  · refine ⟨by decide, by decide, by decide, by decide, by decide, by decide, by decide, by decide, by decide, ?_, by decide,
      by decide, by decide⟩
    intro k hk
    cases hk
    exact m
  · refine ⟨by decide +kernel, by decide, ?_, by decide⟩
    intro n hn
    cases hn
    trivial

/-- The step invariants, at the station with a tick waiting and at one whose every slot works. -/
theorem met_invariants (h1 : Obligations.MemoryStaysCanonical) (h2 : Obligations.LinkStaysWithinItsPlaces)
    (h3 : Obligations.BenchQueueHoldsWaitingStations) (h4 : Obligations.StuckTimersFollowTheLines)
    (h5 : Obligations.PointTableStaysKeyed) (h6 : Obligations.UnitsStayInTheirRanges) :
    ∃ t, step (waiting .timebaseTick) = .next t ∧ t.mem.wf = true ∧ t.blk.LinkOk ∧ t.blk.bcu.QueueOk ∧ t.blk.LinesOk
      ∧ t.blk.rsq.TableOk ∧ t.blk.riu.Ok
      ∧ ∃ u, step { on working with pending := [.refreshExpiry] } = .next u ∧ u.blk.PipelineOk := by
  obtain ⟨a, b, c, d, e, f, g, i⟩ := readyInvariants
  exact ⟨_, rfl, h1 (waiting .timebaseTick) _ rfl rfl, h2 (waiting .timebaseTick) _ a rfl,
    h3 (waiting .timebaseTick) _ d rfl, h4 (waiting .timebaseTick) _ b rfl,
    (h6.1 (waiting .timebaseTick) _ rfl).2.2.2.2 e, (h6.1 (waiting .timebaseTick) _ rfl).2.2.1 g, _, rfl,
    h5 { on working with pending := [.refreshExpiry] } _ workingOrder rfl⟩

theorem met_InvariantsHoldAfterReset (h : Obligations.InvariantsHoldAfterReset) :
    State.reset.blk.LinkOk ∧ (resetState 5 ready).blk.PipelineOk :=
  ⟨(h.2 _ (Or.inl rfl)).1, (h.2 _ (Or.inr ⟨5, ready, _, rfl, rfl⟩)).2.2.2.2.2.2.2.2⟩

theorem met_PlanAndOwnerChangeOnlyByTheirRequests (h : Obligations.PlanAndOwnerChangeOnlyByTheirRequests) :
    ∀ t, exec .mediumFree (on (rowState 40 .final)) = .next t →
      (∀ p ∈ t.blk.rsq.points, ∃ p' ∈ [point 1 .viewing], p'.plan = p.plan)
        ∧ (∀ p ∈ [point 1 .viewing], ∃ p' ∈ t.blk.rsq.points, p'.plan = p.plan) := by
  intro t ht
  obtain ⟨a, b, -⟩ := h .mediumFree _ t ht
  exact ⟨a (by simp) (by simp), b (by simp) (by simp) (by simp) (by simp) (by decide)⟩

theorem met_RunOwnerGone (h : Obligations.PlanAndOwnerChangeOnlyByTheirRequests) :
    ∀ t, exec (.pinReset 5) (on { blk with rsq := { Rsq.reset with owner := some 3 } }) = .next t →
      (Instr.pinReset 5 = .run ∨ Instr.pinReset 5 = .resetstn ∨ (∃ strap, Instr.pinReset 5 = .pinReset strap)
        ∨ StationPhase.ready = .resetting) := by
  intro t ht
  have e : t = resetState 5 _ := (Host.Outcome.next.inj ht).symm
  exact (h _ _ t ht).2.2 (by rw [e]; decide)

/-! ### Obligations applied: the link -/

def ask (dest : Station) : Frame := { sender := 3, kind := .ask, dest := dest, payload := [10] }

def announce (sender : Station) (a : Announce) : Frame :=
  { sender := sender, kind := .state, dest := 0
    payload := StateFrame.payload { announced := a, run := .loaded, work := none } }

/-- The Receive Buffer with `n` requests. -/
def buffered (n : Nat) : State :=
  on { blk with lki := { blk.lki with recv := List.replicate n { sender := 3, payload := [10] } } }

theorem met_FrameBitsRoundTrip (h : Obligations.FrameBitsRoundTrip) :
    let short : Frame := { announce 4 .idle with payload := [0, 1, 0] }
    let strange : Frame := { announce 4 .idle with payload := [6, 1, 0, 0] }
    Frame.parse (ask 0).bits = some (ask 0) ∧ Frame.parse (announce 4 .idle).bits = some (announce 4 .idle)
      ∧ (∀ f, Frame.parse short.bits = some f → f ≠ short) ∧ ∀ f, Frame.parse strange.bits = some f → f ≠ strange := by
  refine ⟨h.1 (ask 0) (by decide), (h.2 _ _).2 ⟨rfl, by decide, by decide⟩, ?_, ?_⟩
  · rintro f e rfl
    exact absurd (((h.2 _ _).1 e).2.2 rfl).1 (by decide)
  · rintro f e rfl
    exact absurd (((h.2 _ _).1 e).2.2 rfl).2.1 (by decide)

/-- The report unit with every counter at `n` and a NOTICE state. -/
def reporting (n : Nat) (notice : NoticeState) : State :=
  on { blk with rpu := { Rpu.reset with counters := Vector.replicate 10 n, notice := notice } }

/-- What the reports of one refused frame leave, by the counter's value and the NOTICE state before (R173, R174). -/
theorem met_ReportsFollowTheirRules (h : Obligations.FramesGoWhereTheirKindSends) :
    ∃ a b c d, exec (.receiveFrame []) (reporting 65534 .idle) = .next a
      ∧ exec (.receiveFrame []) (reporting 65535 .sending) = .next b
      ∧ exec (.receiveFrame []) { reporting 65534 .sending with site := { ready.site with cfg := Settings.cleared } } = .next c
      ∧ exec (.receiveFrame []) (reporting 0 .pending) = .next d
      ∧ [a, b, c, d].map (fun t => (t.blk.rpu.counters[9], t.blk.rpu.isSet .countFull, t.blk.rpu.isSet .crcError,
          t.blk.rpu.notice, t.blk.rpu.renew))
        = [(65535, true, true, .pending, false), (65535, false, true, .sending, true), (65535, true, true, .sending, false),
            (1, false, true, .pending, false)] :=
  ⟨_, _, _, _, (h (reporting 65534 .idle) [] (lines _ ⟨rfl, rfl, rfl, rfl⟩)).2.1 rfl (by decide +kernel),
    (h (reporting 65535 .sending) [] (lines _ ⟨rfl, rfl, rfl, rfl⟩)).2.1 rfl (by decide +kernel),
    (h { reporting 65534 .sending with site := { ready.site with cfg := Settings.cleared } } []
      (lines _ ⟨rfl, rfl, rfl, rfl⟩)).2.1 rfl (by decide +kernel),
    (h (reporting 0 .pending) [] (lines _ ⟨rfl, rfl, rfl, rfl⟩)).2.1 rfl (by decide +kernel), by decide +kernel⟩

theorem met_FramesGoWhereTheirKindSends (h : Obligations.FramesGoWhereTheirKindSends) :
    exec (.receiveFrame []) { ready with blk := { blk with lki := Lki.reset } }
        = .next { ready with blk := { blk with lki := Lki.reset } }
      ∧ (∃ t, exec (.receiveFrame []) ready = .next t ∧ t.blk.rpu.counters[9] = 1)
      ∧ (∃ t, exec (.receiveFrame (ask 0).bits) (buffered 3) = .next t ∧ t.blk.lki.recv.length = 4)
      ∧ (∃ t, exec (.receiveFrame (ask 0).bits) (buffered 4) = .next t ∧ t.blk.rpu.counters[8] = 1)
      ∧ exec (.receiveFrame (ask 1).bits) (buffered 4) = .next (buffered 4) := by
  have l : ∀ n, (buffered n).blk.LinesOk := fun n => lines _ ⟨rfl, rfl, rfl, rfl⟩
  refine ⟨(h _ [] (lines _ ⟨rfl, rfl, rfl, rfl⟩)).1 rfl, ?_, ?_, ?_, ?_⟩
  · exact ⟨_, (h ready [] (lines _ ⟨rfl, rfl, rfl, rfl⟩)).2.1 rfl (by decide +kernel), by decide +kernel⟩
  · exact ⟨_, ((h (buffered 3) (ask 0).bits (l 3)).2.2 (ask 0) (by decide +kernel) rfl (by decide)).1 rfl rfl (by decide), rfl⟩
  · exact ⟨_, ((h (buffered 4) (ask 0).bits (l 4)).2.2 (ask 0) (by decide +kernel) rfl (by decide)).2.1
      (Or.inl ⟨rfl, rfl⟩) (by decide), by decide +kernel⟩
  · exact ((h (buffered 4) (ask 1).bits (l 4)).2.2 (ask 1) (by decide +kernel) rfl (by decide)).2.2 (Or.inl ⟨rfl, by decide⟩)

theorem met_StateFrameUpdatesTheBench (h : Obligations.StateFrameUpdatesTheBench) :
    ∃ t, exec (.receiveFrame (announce 4 .waitMove).bits) (buffered 3) = .next t ∧ t.blk.bcu.own = .idle
      ∧ t.blk.bcu.peers[(4 : Station)]
          = { announced := .heard .waitMove, run := some .loaded, work := none, stamp := some 100000 } := by
  obtain ⟨t, e, -, p, -, -, -, -, -, -, -, o, -⟩ := h (buffered 3) (announce 4 .waitMove).bits (announce 4 .waitMove)
    { announced := .waitMove, run := .loaded, work := none } rfl (by decide +kernel) rfl (by decide) (by decide) (by decide)
  exact ⟨t, e, o.1, p⟩

/-- The Peer Table with the entry of `p` LOST. -/
def losing (p : Station) : Bcu :=
  { blk.bcu with peers := blk.bcu.peers.set p { announced := .lost, run := some .running, work := none, stamp := some 5 } }

/-- The last LOST entry restored ends PEERLOST, which is raised again under BOTH; while another is LOST nothing is raised. -/
theorem met_RestoredPeerIsReported (h : Obligations.StateFrameUpdatesTheBench) :
    let heard := fun c : Bcu => on { blk with bcu := c }
    (∃ t, exec (.receiveFrame (announce 4 .idle).bits) (heard (losing 4)) = .next t ∧ t.blk.rpu.isSet .peerLost = true
        ∧ t.blk.rpu.notice = .pending)
      ∧ ∃ t, exec (.receiveFrame (announce 4 .idle).bits) (heard (losing 5)) = .next t ∧ t.blk.rpu = Rpu.reset := by
  intro heard
  refine ⟨?_, ?_⟩
  · obtain ⟨t, e, -, -, -, -, -, -, -, -, -, -, r⟩ := h (heard (losing 4)) (announce 4 .idle).bits (announce 4 .idle)
      { announced := .idle, run := .loaded, work := none } rfl (by decide +kernel) rfl (by decide) (by decide) (by decide)
    have r := (r (lines _ ⟨rfl, rfl, rfl, rfl⟩)).1 (by decide +kernel)
    exact ⟨t, e, by rw [r]; decide +kernel, by rw [r]; decide +kernel⟩
  · obtain ⟨t, e, -, -, -, -, -, -, -, -, -, -, r⟩ := h (heard (losing 5)) (announce 4 .idle).bits (announce 4 .idle)
      { announced := .idle, run := .loaded, work := none } rfl (by decide +kernel) rfl (by decide) (by decide) (by decide)
    exact ⟨t, e, (r (lines _ ⟨rfl, rfl, rfl, rfl⟩)).2 (by decide +kernel)⟩

/-- The station waiting in the own state `o`, alone in the Bench Queue. -/
def queued (o : OwnState) (a : Announce) (who : Claimant) : Blocks :=
  { blk with bcu := { bcuIn o a [who] with benchQueue := [0] } }

/-- A peer's frame, or its silence, lets an eligible mover start and an eligible quiet claimant hold (R52, R56, R59). -/
theorem test_frame_starts_a_waiting_station :
    (∃ t, exec (.receiveFrame (announce 4 .idle).bits) (on (queued .waitMove .waitMove .adu)) = .next t
        ∧ t.blk.bcu.own = .starting)
      ∧ ∃ t, exec (.receiveFrame (announce 4 .idle).bits) (on (queued .waitQuiet .waitQuiet .ldu)) = .next t
          ∧ t.blk.bcu.own = .holding :=
  ⟨⟨_, rfl, by decide +kernel⟩, _, rfl, by decide +kernel⟩

/-- Station 7 last heard in state `a`; 4 and 5 wait. -/
def benchAfter (a : Announce) : Bcu :=
  { Bcu.reset 0 false false with
    benchQueue := [4, 5]
    peers := (Bcu.reset 0 false false).peers.set 7 { announced := .heard a, run := none, work := none, stamp := some 0 } }

theorem met_BenchQueueFollowsTheFrames (h : Obligations.BenchQueueFollowsTheFrames) :
    let f := fun a : Announce => ({ announced := a, run := .running, work := none } : StateFrame)
    ((benchAfter .moving).takeFrame 1 7 (f .waitMove)).benchQueue = [7, 4, 5]
      ∧ ((benchAfter .waitMove).takeFrame 1 7 (f .waitMove)).benchQueue = [4, 5]
      ∧ ((benchAfter .waitQuiet).takeFrame 1 7 (f .waitQuiet)).benchQueue = [4, 5]
      ∧ ((benchAfter .idle).takeFrame 1 7 (f .waitMove)).benchQueue = [4, 5, 7]
      ∧ ((benchAfter .waitMove).takeFrame 1 7 (f .waitQuiet)).benchQueue = [4, 5, 7]
      ∧ ((benchAfter .waitMove).takeFrame 1 7 (f .settling)).benchQueue = [4, 5]
      ∧ (Bcu.reset 0 false false).benchQueue.length ≤ 16 := by
  intro f
  exact ⟨(h (benchAfter .moving) 1 7 (f .waitMove)).1 rfl rfl, (h (benchAfter .waitMove) 1 7 (f .waitMove)).2.1 rfl rfl,
    (h (benchAfter .waitQuiet) 1 7 (f .waitQuiet)).2.2.1 rfl rfl,
    (h (benchAfter .idle) 1 7 (f .waitMove)).2.2.2.1 rfl (by decide) (by decide),
    (h (benchAfter .waitMove) 1 7 (f .waitQuiet)).2.2.2.2.1 rfl (by decide),
    (h (benchAfter .waitMove) 1 7 (f .settling)).2.2.2.2.2.1 (Or.inr (Or.inr (Or.inl rfl))),
    ((h (Bcu.reset 0 false false) 1 7 (f .idle)).2.2.2.2.2.2.2 readyInvariants.2.2.2.1).1⟩

theorem met_OwnNumberOnTheLinkIsAClash (h : Obligations.OwnNumberOnTheLinkIsAClash) :
    (∃ t, exec (.receiveFrame (announce 0 .idle).bits) (on { blk with bcu := bcuIn .quiet .quiet [.ldu] }) = .next t
        ∧ t.blk.bcu.clash = true)
      ∧ (∃ t, exec (.receiveFrame (announce 0 .idle).bits) (on { blk with bcu := { blk.bcu with own := .blocked } }) = .next t
          ∧ t.blk.bcu.own = .blocked)
      ∧ ∃ t, exec (.receiveFrame (announce 0 .idle).bits) ready = .next t ∧ t.blk.bcu.own = .blocked := by
  refine ⟨?_, ?_, ?_⟩
  · obtain ⟨t, e, -, -, a, -, -⟩ := h (on { blk with bcu := bcuIn .quiet .quiet [.ldu] }) (announce 0 .idle).bits
      (announce 0 .idle) (lines _ ⟨rfl, rfl, rfl, rfl⟩) rfl (by decide +kernel) rfl
    exact ⟨t, e, by rw [a (Or.inr (Or.inr rfl))]⟩
  · obtain ⟨t, e, -, -, -, a, -⟩ := h (on { blk with bcu := { blk.bcu with own := .blocked } }) (announce 0 .idle).bits
      (announce 0 .idle) (lines _ ⟨rfl, rfl, rfl, rfl⟩) rfl (by decide +kernel) rfl
    exact ⟨t, e, by rw [a rfl]; rfl⟩
  · obtain ⟨t, e, -, -, -, -, a⟩ := h ready (announce 0 .idle).bits (announce 0 .idle) (lines _ ⟨rfl, rfl, rfl, rfl⟩) rfl
      (by decide +kernel) rfl
    exact ⟨t, e, by rw [a (Or.inl rfl)]⟩

/-- The link unit of `ready` in another state, with a Result Queue and its owner. -/
def linked (l : Lki) (notice : NoticeState := .idle) (results : List Seq := []) : State :=
  on { blk with
    lki := l, rpu := { Rpu.reset with notice := notice }
    rsq := { Rsq.reset with points := [point 1 .done], resultQueue := results, owner := some 3 } }

def aState : StateFrame := { announced := .moving, run := .running, work := some 1 }
def anAnswer : Answer := { dest := 3, payload := [10, 0] }

theorem met_FreeMediumOffersInOrder (h : Obligations.FreeMediumOffersInOrder) :
    (∃ t, exec .mediumFree (linked { blk.lki with tx := .offering .answer }) = .next t ∧ t.blk.lki.tx = .offering .answer)
      ∧ (∃ t, exec .mediumFree (linked { blk.lki with slot := some aState }) = .next t ∧ t.blk.lki.tx = .offering .state)
      ∧ (∃ t, exec .mediumFree (linked { blk.lki with placed := [anAnswer] }) = .next t ∧ t.blk.lki.tx = .offering .answer)
      ∧ (∃ t, exec .mediumFree (linked blk.lki .pending) = .next t ∧ t.blk.lki.tx = .offering .notice)
      ∧ (∃ t, exec .mediumFree (linked blk.lki .idle [1]) = .next t ∧ t.blk.lki.tx = .offering .result)
      ∧ (∃ t, exec .mediumFree (linked blk.lki) = .next t ∧ t.blk.lki.tx = .idle)
      ∧ Runs .loseArbitration (linked { blk.lki with tx := .offering .answer }) ∧ Runs .loseArbitration (linked blk.lki) := by
  refine ⟨?_, ?_, ?_, ?_, ?_, ?_, ?_, ?_⟩
  · obtain ⟨t, e, -, a, -⟩ := h (linked { blk.lki with tx := .offering .answer })
    exact ⟨t, e, a (by simp [linked, on, State.withBlk])⟩
  · obtain ⟨t, e, -, -, a, -⟩ := h (linked { blk.lki with slot := some aState })
    exact ⟨t, e, (a rfl).1 (by simp [linked, on, State.withBlk])⟩
  · obtain ⟨t, e, -, -, a, -⟩ := h (linked { blk.lki with placed := [anAnswer] })
    exact ⟨t, e, (a rfl).2.1 rfl (by simp [linked, on, State.withBlk])⟩
  · obtain ⟨t, e, -, -, a, -⟩ := h (linked blk.lki .pending)
    exact ⟨t, e, (a rfl).2.2.1 rfl rfl rfl⟩
  · obtain ⟨t, e, -, -, a, -⟩ := h (linked blk.lki .idle [1])
    exact ⟨t, e, (a rfl).2.2.2.1 rfl rfl (by decide) (by decide) (by decide)⟩
  · obtain ⟨t, e, -, -, a, -⟩ := h (linked blk.lki)
    exact ⟨t, e, (a rfl).2.2.2.2 rfl rfl (by decide) (Or.inl rfl)⟩
  · obtain ⟨-, -, -, -, -, a, -⟩ := h (linked { blk.lki with tx := .offering .answer })
    exact ⟨_, a .answer rfl⟩
  · obtain ⟨-, -, -, -, -, -, a⟩ := h (linked blk.lki)
    exact ⟨_, a (by simp [linked, on, State.withBlk, blk, ready, Lki.reset])⟩

theorem met_WonMediumTakesTheOfferedFrame (h : Obligations.WonMediumTakesTheOfferedFrame) :
    Runs .winMedium (linked { blk.lki with tx := .offering .state, slot := some aState })
      ∧ Runs .winMedium (linked { blk.lki with tx := .offering .answer, placed := [anAnswer] })
      ∧ Runs .winMedium (linked { blk.lki with tx := .offering .notice } .pending)
      ∧ Runs .winMedium (linked { blk.lki with tx := .offering .result } .idle [1]) ∧ Runs .winMedium (linked blk.lki) :=
  ⟨⟨_, (h _).1 _ rfl rfl⟩, ⟨_, (h _).2.1 _ [] rfl rfl⟩, ⟨_, (h _).2.2.1 rfl rfl⟩,
    ⟨_, (h _).2.2.2.1 1 [] 3 (point 1 .done) rfl rfl rfl rfl⟩, ⟨_, (h _).2.2.2.2 (by intro o; exact Tx.noConfusion)⟩⟩

theorem met_AbandonedFrameReturns (h : Obligations.AbandonedFrameReturns) :
    Runs .frameAbandoned (linked { blk.lki with tx := .sending (.state aState) })
      ∧ Runs .frameAbandoned (linked { blk.lki with tx := .sending (.state aState), slot := some aState })
      ∧ Runs .frameAbandoned (linked { blk.lki with tx := .sending (.notice 15 []) } .sending)
      ∧ Runs .frameAbandoned (linked { blk.lki with tx := .sending (.answer anAnswer) })
      ∧ Runs .frameAbandoned (linked { blk.lki with tx := .sending (.result 1 3 [] true) })
      ∧ Runs .frameAbandoned (linked blk.lki) :=
  ⟨⟨_, ((h _).1 _ rfl).1 rfl (by decide)⟩, ⟨_, ((h _).1 _ rfl).2 (Or.inl (by decide))⟩, ⟨_, (h _).2.1 _ _ rfl rfl⟩,
    ⟨_, (h _).2.2.1 _ rfl⟩, ⟨_, (h _).2.2.2.1 _ _ _ _ rfl⟩, ⟨_, (h _).2.2.2.2 (by intro o; exact Tx.noConfusion)⟩⟩

theorem met_PassedFrameLeavesItsQueue (h : Obligations.PassedFrameLeavesItsQueue) :
    Runs .ownFramePasses (linked { blk.lki with tx := .sending (.answer anAnswer), placed := [anAnswer] })
      ∧ Runs .ownFramePasses (linked { blk.lki with tx := .sending (.result 1 3 [] true) } .idle [1])
      ∧ Runs .ownFramePasses (linked { blk.lki with tx := .sending (.result 1 3 [] false) })
      ∧ Runs .ownFramePasses (linked { blk.lki with tx := .sending (.notice 15 []) } .sending)
      ∧ Runs .ownFramePasses (linked blk.lki) :=
  ⟨⟨_, (h _).1 _ _ [] rfl rfl⟩, ⟨_, (h _).2.1 _ _ _ _ [] rfl rfl⟩, ⟨_, (h _).2.2.1 _ _ _ rfl⟩,
    ⟨_, (h _).2.2.2.1 _ _ rfl rfl⟩, ⟨_, (h _).2.2.2.2 (by intro o; exact Tx.noConfusion)⟩⟩

theorem met_OwnStateFrameIsEchoed (h : Obligations.OwnStateFrameIsEchoed) :
    let s := fun o : OwnState => on { blk with
      lki := { blk.lki with tx := .sending (.state aState) }, bcu := bcuIn o .waitMove [.adu] }
    (∃ t, exec .ownFramePasses (s .starting) = .next t ∧ t.blk.bcu.own = .checking)
      ∧ (∃ t, exec .ownFramePasses (s .moving) = .next t ∧ t.blk.bcu.own = .moving)
      ∧ ∃ t, exec .ownFramePasses (on { queued .waitMove .idle .adu with lki := { blk.lki with
            tx := .sending (.state { aState with announced := .waitMove }) } }) = .next t ∧ t.blk.bcu.own = .starting := by
  intro s
  refine ⟨?_, ?_, _, rfl, by decide +kernel⟩
  · obtain ⟨t, e, -, -, -, -, -, -, -, -, -, a, -⟩ := h (s .starting) aState rfl
    exact ⟨t, e, (a rfl rfl).1⟩
  · obtain ⟨t, e, -, -, -, -, -, -, -, -, -, -, a⟩ := h (s .moving) aState rfl
    exact ⟨t, e, (a (Or.inl (by decide))).1⟩

/-- The echo, too, ends PEERLOST when the own entry was the last LOST one. -/
theorem met_EchoEndsPeerlost (h : Obligations.OwnStateFrameIsEchoed) :
    let s := fun c : Bcu => on { blk with lki := { blk.lki with tx := .sending (.state aState) }, bcu := c }
    (∃ t, exec .ownFramePasses (s (losing 0)) = .next t ∧ t.blk.rpu.isSet .peerLost = true)
      ∧ ∃ t, exec .ownFramePasses (s (losing 4)) = .next t ∧ t.blk.rpu = Rpu.reset := by
  intro s
  refine ⟨?_, ?_⟩
  · obtain ⟨t, e, -, -, -, -, -, -, -, -, r, -⟩ := h (s (losing 0)) aState rfl
    exact ⟨t, e, by rw [(r (lines _ ⟨rfl, rfl, rfl, rfl⟩)).1 (by decide +kernel)]; decide +kernel⟩
  · obtain ⟨t, e, -, -, -, -, -, -, -, -, r, -⟩ := h (s (losing 4)) aState rfl
    exact ⟨t, e, (r (lines _ ⟨rfl, rfl, rfl, rfl⟩)).2 (by decide +kernel)⟩

/-! ### Obligations applied: the requests -/

/-- A request of station 3 at the sequencer `r`. -/
def askedOf (r : Rsq) (payload : List Byte) (b : Blocks := blk) : State := asked payload { b with rsq := r }

/-- A sequencer with records, in a run state. -/
def rsqOf (points : List Point) (run : RunState) : Rsq := { Rsq.reset with points := points, run := run }

/-- A READY or PARKED station with an empty Answer Queue serves the request at its head. -/
theorem serves {s : State} {r : Request} {rest : List Request} {c : ReqCode}
    (h : s.blk.lki.recv = r :: rest ∧ s.blk.lki.placed = [] ∧ s.blk.lki.reserved = 0 ∧ r.code = some c
      ∧ r.lengthOk c = true) (p : s.blk.phase = .ready ∨ s.blk.phase = .parked) : s.mayServe r rest c := by
  obtain ⟨a, b, d, e, f⟩ := h
  refine ⟨⟨a, by rw [b, d]; decide⟩, e, f, ?_, ?_⟩ <;> rcases p with p | p <;> rw [p] <;> decide

def addpt (seq edge x : Byte) : List Byte :=
  [2, 0, seq, 1, 0, x, 0, 0, 0, 0, 0, 0, 0, 2, 3, 232, 0, 100, edge, 3, 0, 200, 1, 44]

def retest (original seq dx : Byte) : List Byte := [6, 0, original, 0, seq, dx, 0, 0, 0]

theorem met_RequestsAreScreened (h : Obligations.RequestsAreScreened) :
    Runs .badcodeRequest (asked []) ∧ exec .badcodeRequest (asked [4]) = .next (asked [4])
      ∧ exec .run (asked [5, 0]) = .next (asked [5, 0]) ∧ Runs .addpt (asked [2])
      ∧ Runs .run (asked [4] { blk with phase := .unconfigured }) ∧ Runs .config
          (asked ([1, 6] ++ List.replicate 16 0) { blk with phase := .resetting })
      ∧ exec .run ready = .next ready
      ∧ exec .run (asked [4] { blk with lki := { blk.lki with placed := List.replicate 6 anAnswer } })
          = .next (asked [4] { blk with lki := { blk.lki with placed := List.replicate 6 anAnswer } }) :=
  ⟨⟨_, ((h (asked []) ⟨3, []⟩ []).1 ⟨rfl, by decide⟩).1 rfl⟩,
    ((h (asked [4]) ⟨3, [4]⟩ []).1 ⟨rfl, by decide⟩).2.1 (by decide),
    (((h (asked [5, 0]) ⟨3, [5, 0]⟩ []).1 ⟨rfl, by decide⟩).2.2 .run).1 (by decide),
    ⟨_, ((((h (asked [2]) ⟨3, [2]⟩ []).1 ⟨rfl, by decide⟩).2.2 .addpt).2 rfl).1 rfl⟩,
    ⟨_, ((((h (asked [4] { blk with phase := .unconfigured }) ⟨3, [4]⟩ []).1 ⟨rfl, by decide⟩).2.2 .run).2 rfl).2.1 rfl rfl
      (by decide) (by decide) (by decide)⟩,
    ⟨_, ((((h (asked ([1, 6] ++ List.replicate 16 0) { blk with phase := .resetting })
      ⟨3, [1, 6] ++ List.replicate 16 0⟩ []).1 ⟨rfl, by decide⟩).2.2 .config).2 rfl).2.2 rfl rfl (by decide)⟩,
    ((h ready ⟨3, [4]⟩ []).2 (Or.inl rfl)).2 .run,
    ((h _ ⟨3, [4]⟩ []).2 (Or.inr (by decide))).2 .run⟩

/-- Section 6 of a configuration, with the low byte of its largest y. -/
def stageSection (y : Byte) : List Byte := [1, 6] ++ List.replicate 7 0 ++ [9] ++ List.replicate 7 0 ++ [y]

/-- An unconfigured station whose store holds `cfg` and has received the sections but those in `missing`. -/
def storing (missing : List Nat) (payload : List Byte) : State :=
  { asked payload { blk with phase := .unconfigured } with
    held := cfg, received := Vector.ofFn fun i : Fin 6 => !missing.contains i.val }

/-- `cfg` with that section stored. -/
def staged (y : Int) : Settings := { cfg with stage := { xMin := 0, xMax := 9, yMin := 0, yMax := y } }

/-- A payload that names section 6 gives that section. -/
theorem storedStage {c held : Settings} {p : List Byte} (h : byteAt p 1 = 6) :
    Settings.Stored c held p ↔ StageSection.Given c.stage p ∧ c = { held with stage := c.stage } := by
  simp [Settings.Stored, h]

theorem met_ConfigFillsTheStore (h : Obligations.ConfigFillsTheStore) :
    Settings.firstFailure cfg = none
      ∧ Settings.firstFailure { cfg with load := { cfg.load with releaseThreshold := 20 } } = some 4
      ∧ Settings.firstFailure { cfg with image := { cfg.image with lightHigh := 40 } } = some 5
      ∧ Settings.firstFailure { cfg with stage := { cfg.stage with yMax := -500000 } } = some 6
      ∧ Settings.firstFailure Settings.cleared = some 3
      ∧ Runs .config (asked (stageSection 1)) ∧ Runs .config (storing [5] ([1, 6, 127] ++ List.replicate 15 0))
      ∧ (∃ t, exec .config (storing [0, 5] (stageSection 1)) = .next t ∧ t.blk.phase = .unconfigured)
      ∧ (∃ t, exec .config (storing [5] (stageSection 0)) = .next t ∧ t.blk.phase = .unconfigured)
      ∧ ∃ t, exec .config (storing [5] (stageSection 1)) = .next t ∧ t.blk.phase = .ready ∧ t.blk.rpu = Rpu.reset := by
  obtain ⟨v, c⟩ := h
  have tools : (∃ p : TurretPos, cfg.tools[p].kind = .vickers ∨ cfg.tools[p].kind = .knoop)
      ∧ ∃ p : TurretPos, cfg.tools[p].kind = .objective := ⟨⟨0, Or.inl rfl⟩, ⟨2, rfl⟩⟩
  have m : ∀ w p, (storing w p).mayTake ⟨3, p⟩ [] := fun w p => ⟨rfl, (by decide : 0 < 6)⟩
  have stored : ∀ w (y : Byte) (z : Int), StageSection.Given (staged z).stage (stageSection y) →
      Settings.Stored (staged z) (storing w (stageSection y)).held (stageSection y) :=
    fun w y z g => (storedStage rfl).2 ⟨g, rfl⟩
  have given : StageSection.Given (staged 1).stage (stageSection 1)
      ∧ StageSection.Given (staged 0).stage (stageSection 0) := by
    unfold StageSection.Given InRange; decide +kernel
  refine ⟨(v cfg).2.2.2.2 tools (by decide) (by decide) (by decide),
    (v { cfg with load := { cfg.load with releaseThreshold := 20 } }).2.1 tools (by decide),
    (v { cfg with image := { cfg.image with lightHigh := 40 } }).2.2.1 tools (by decide) (by decide),
    (v { cfg with stage := { cfg.stage with yMax := -500000 } }).2.2.2.1 tools (by decide) (by decide) (by decide),
    (v Settings.cleared).1 (by decide +kernel), ?_, ?_, ?_, ?_, ?_⟩
  · exact ⟨_, (c (asked (stageSection 1)) ⟨3, stageSection 1⟩ [] ⟨rfl, by decide⟩ rfl rfl).1 (Or.inl rfl)⟩
  · refine ⟨_, ((c (storing [5] ([1, 6, 127] ++ List.replicate 15 0)) ⟨3, [1, 6, 127] ++ List.replicate 15 0⟩ [] (m _ _)
      rfl rfl).2 rfl).1 ?_⟩
    intro c hc
    obtain ⟨⟨e, r, -⟩, -⟩ := (storedStage (by decide +kernel)).1 hc
    rw [e] at r
    exact absurd r (by unfold InRange; decide +kernel)
  · exact ⟨_, (((c (storing [0, 5] (stageSection 1)) ⟨3, _⟩ [] (m _ _) rfl rfl).2 rfl).2 (staged 1)
      (stored _ _ _ given.1)).1 ⟨0, by decide +kernel⟩, rfl⟩
  · exact ⟨_, (((c (storing [5] (stageSection 0)) ⟨3, _⟩ [] (m _ _) rfl rfl).2 rfl).2 (staged 0)
      (stored _ _ _ given.2)).2.1 (by decide +kernel) 6 (by decide +kernel), rfl⟩
  · obtain ⟨t, e, -, -, -, -, -, -, r, b⟩ := (((c (storing [5] (stageSection 1)) ⟨3, _⟩ [] (m _ _) rfl rfl).2 rfl).2
      (staged 1) (stored _ _ _ given.1)).2.2 (by decide +kernel) (by decide +kernel)
    exact ⟨t, e, by rw [b], r (lines _ ⟨rfl, rfl, rfl, rfl⟩)⟩

theorem met_AddptEntersARecord (h : Obligations.AddptEntersARecord) :
    Runs .addpt (asked (addpt 7 2 0)) ∧ Runs .addpt (askedOf (rsqOf [] .stopping) (addpt 7 0 0))
      ∧ Runs .addpt (askedOf (rsqOf (List.replicate 96 (point 1 .done)) .halted) (addpt 7 0 0))
      ∧ Runs .addpt (askedOf (rsqOf [point 7 .done] .running) (addpt 7 1 0)) ∧ Runs .addpt (asked (addpt 0 1 0))
      ∧ (∃ t, exec .addpt (asked (addpt 7 1 7)) = .next t ∧ t.blk.rsq.run = .loaded)
      ∧ ∃ t, exec .addpt (askedOf (rsqOf [point 1 .waiting] .running) (addpt 7 1 7)) = .next t
          ∧ t.blk.rsq.points.length = 2 := by
  refine ⟨⟨_, (h (asked (addpt 7 2 0)) ⟨3, _⟩ [] (serves ⟨rfl, rfl, rfl, rfl, rfl⟩ (Or.inl rfl))).1 (Or.inl (by decide))⟩,
    ⟨_, ((h (askedOf (rsqOf [] .stopping) (addpt 7 0 0)) ⟨3, _⟩ [] (serves ⟨rfl, rfl, rfl, rfl, rfl⟩ (Or.inl rfl))).2 (by decide)
      (by decide)).1 rfl⟩,
    ⟨_, ((h (askedOf (rsqOf (List.replicate 96 (point 1 .done)) .halted) (addpt 7 0 0)) ⟨3, _⟩ []
      (serves ⟨rfl, rfl, rfl, rfl, rfl⟩ (Or.inl rfl))).2 (by decide) (by decide)).2.1 (by decide) (by decide)⟩,
    ⟨_, ((h (askedOf (rsqOf [point 7 .done] .running) (addpt 7 1 0)) ⟨3, _⟩ []
      (serves ⟨rfl, rfl, rfl, rfl, rfl⟩ (Or.inl rfl))).2 (by decide) (by decide)).2.2.1 (by decide) (by decide)
      ⟨_, List.mem_singleton.2 rfl, rfl⟩⟩,
    ⟨_, (((h (asked (addpt 0 1 0)) ⟨3, _⟩ [] (serves ⟨rfl, rfl, rfl, rfl, rfl⟩ (Or.inl rfl))).2 (by decide)
      (by decide)).2.2.2 (by decide) (by decide) (by decide)).1 (by rintro i o ⟨-, -, a, -⟩; revert a; decide)⟩, ?_, ?_⟩
  · exact ⟨_, (((h (asked (addpt 7 1 7)) ⟨3, _⟩ [] (serves ⟨rfl, rfl, rfl, rfl, rfl⟩ (Or.inl rfl))).2 (by decide)
      (by decide)).2.2.2 (by decide) (by decide) (by decide)).2 0 2 (by unfold AddptArgs.Acceptable; decide +kernel), rfl⟩
  · exact ⟨_, (((h (askedOf (rsqOf [point 1 .waiting] .running) (addpt 7 1 7)) ⟨3, _⟩ []
      (serves ⟨rfl, rfl, rfl, rfl, rfl⟩ (Or.inl rfl))).2 (by decide) (by decide)).2.2.2 (by decide) (by decide) (by decide)).2 0 2
      (by unfold AddptArgs.Acceptable; decide +kernel), rfl⟩

theorem met_DropptRemovesARecord (h : Obligations.DropptRemovesARecord) :
    let s := fun r : Rsq => askedOf r [3, 0, 7]
    Runs .droppt (s Rsq.reset) ∧ Runs .droppt (s (rsqOf [point 7 .done] .loaded))
      ∧ Runs .droppt (s { rsqOf [point 7 .waiting] .running with groupList := [7] })
      ∧ (∃ t, exec .droppt (s { rsqOf [point 7 .waiting] .loaded with orderList := [7] }) = .next t
          ∧ t.blk.rsq.run = .empty ∧ t.blk.rsq.orderList = [])
      ∧ ∃ t, exec .droppt (s (rsqOf [point 7 .indented, point 8 .done] .halted)) = .next t
          ∧ t.blk.rsq.run = .finished := by
  intro s
  have m : ∀ r, (s r).mayServe ⟨3, [3, 0, 7]⟩ [] .droppt := fun r => (serves ⟨rfl, rfl, rfl, rfl, rfl⟩ (Or.inl rfl))
  exact ⟨⟨_, (h (s Rsq.reset) _ _ (m _)).1 (by decide)⟩,
    ⟨_, ((h (s (rsqOf [point 7 .done] .loaded)) _ _ (m _)).2 (point 7 .done) rfl).1 (Or.inr (by decide))⟩,
    ⟨_, ((h (s { rsqOf [point 7 .waiting] .running with groupList := [7] }) _ _ (m _)).2 (point 7 .waiting) rfl).1
      (Or.inl (Or.inl (by decide)))⟩,
    ⟨_, ((h (s { rsqOf [point 7 .waiting] .loaded with orderList := [7] }) _ _ (m _)).2 (point 7 .waiting) rfl).2
      (by decide +kernel) (Or.inl rfl), by decide +kernel, by decide +kernel⟩,
    ⟨_, ((h (s (rsqOf [point 7 .indented, point 8 .done] .halted)) _ _ (m _)).2 (point 7 .indented) rfl).2 (by decide)
      (Or.inr rfl), by decide +kernel⟩⟩

/-- RUN at a plan of point 1 alone, with the turret where its phase needs it. -/
def standing (st : PointState) : State :=
  askedOf { rsqOf [point 1 st] .loaded with orderList := [1] } [4]
    { blk with adu := { blk.adu with
      turret := .at (if st = .indented then 2 else 0), memory := Vector.replicate 6 9000 } }

theorem met_RunFormsAGroup (h : Obligations.RunFormsAGroup) :
    Runs .run (asked [4] { blk with phase := .parked }) ∧ Runs .run (askedOf (rsqOf [] .stopping) [4])
      ∧ (∃ t, exec .run (askedOf (rsqOf [point 1 .done] .halted) [4]) = .next t ∧ t.blk.rsq.run = .finished)
      ∧ (∃ t, exec .run (askedOf { rsqOf [point 1 .waiting] .loaded with orderList := [1] } [4]) = .next t
          ∧ t.blk.rsq.groupList = [1] ∧ (t.blk.bcu.own = .waitMove ∨ t.blk.bcu.own = .starting))
      ∧ (∃ t, exec .run (standing .waiting) = .next t ∧ t.blk.rsq.moveInFlight = some (.point 1)
          ∧ t.blk.adu.move = some (Move.toPoint 1 0 0) ∧ t.blk.rsq.phase = some .indent)
      ∧ ∃ t, exec .run (standing .indented) = .next t ∧ t.blk.rsq.groupList = []
          ∧ t.blk.adu.move = some (Move.toView 1 0 0 9000) ∧ t.blk.rsq.phase = some .view := by
  refine ⟨⟨_, (h (askedOf Rsq.reset [4] { blk with phase := .parked }) _ _ (serves ⟨rfl, rfl, rfl, rfl, rfl⟩ (Or.inr rfl))).1 (Or.inl rfl)⟩,
    ⟨_, (h (askedOf (rsqOf [] .stopping) [4]) _ _ (serves ⟨rfl, rfl, rfl, rfl, rfl⟩ (Or.inl rfl))).1 (Or.inr (Or.inr rfl))⟩, ?_, ?_, ?_, ?_⟩
  · exact ⟨_, (h (askedOf (rsqOf [point 1 .done] .halted) [4]) _ _ (serves ⟨rfl, rfl, rfl, rfl, rfl⟩ (Or.inl rfl))).2.1 rfl (by decide)
      (by decide), rfl⟩
  · have away : (Turret.unknown ≠ .at 0) := by intro a; exact Turret.noConfusion a
    obtain ⟨t, e, -, b, -⟩ := (h (askedOf { rsqOf [point 1 .waiting] .loaded with orderList := [1] } [4]) _ _
      (serves ⟨rfl, rfl, rfl, rfl, rfl⟩ (Or.inl rfl))).2.2 1 [] (point 1 .waiting) rfl (by decide) rfl rfl (Or.inl rfl) rfl rfl
      (Or.inl away)
    obtain ⟨r, -, -, -, -, own, -⟩ := b.1 away
    exact ⟨t, e, by rw [r]; rfl, own rfl rfl⟩
  · obtain ⟨t, e, -, b, -⟩ := (h (standing .waiting) ⟨3, [4]⟩ [] (serves ⟨rfl, rfl, rfl, rfl, rfl⟩ (Or.inl rfl))).2.2 1 []
      (point 1 .waiting) rfl (by decide) rfl rfl (Or.inl rfl) rfl rfl (Or.inr ⟨rfl, rfl, rfl⟩)
    obtain ⟨r, a, -⟩ := b.2 rfl rfl rfl rfl (by decide) (by decide) (by decide) (by decide) (by decide +kernel)
    exact ⟨t, e, by rw [r], by rw [a]; rfl, by rw [r]; rfl⟩
  · obtain ⟨t, e, -, b, -⟩ := (h (standing .indented) ⟨3, [4]⟩ [] (serves ⟨rfl, rfl, rfl, rfl, rfl⟩ (Or.inl rfl))).2.2 1 []
      (point 1 .indented) rfl (by decide) rfl rfl (Or.inr rfl) rfl rfl (Or.inr ⟨rfl, rfl, rfl⟩)
    obtain ⟨r, a, -⟩ := b.2 rfl rfl rfl rfl (by decide) (by decide) (by decide) (by decide) (by decide +kernel)
    exact ⟨t, e, by rw [r]; decide +kernel, by rw [a]; decide +kernel, by rw [r]; rfl⟩

/-- The point in NOW indenting under load. -/
def indenting (run : RunState) (payload : List Byte) : State :=
  askedOf { rsqOf [point 1 .indenting] run with now := some { seq := 1, cond := .indenting } } payload
    { blk with ldu := { Ldu.reset with phase := .dwell, word := 990 } }

theorem met_HaltStopsTheRun (h : Obligations.HaltStopsTheRun) :
    let s := fun (run : RunState) (mode : Byte) => indenting run [5, mode]
    Runs .halt (s .running 2) ∧ Runs .halt (s .stopping 1) ∧ Runs .halt (s .loaded 1)
      ∧ (∃ t, exec .halt (s .running 0) = .next t ∧ t.blk.rsq.run = .stopping ∧ t.blk.rsq.draining = false)
      ∧ ∃ t, exec .halt (s .running 1) = .next t ∧ t.blk.ldu.phase = .unloading ∧ t.blk.ldu.rampForce = 990 := by
  intro s
  have m : ∀ run mode, (s run mode).mayServe ⟨3, [5, mode]⟩ [] .halt :=
    fun run mode => (serves ⟨rfl, rfl, rfl, rfl, rfl⟩ (Or.inl rfl))
  refine ⟨⟨_, (h (s .running 2) _ _ (m _ _)).1 (by decide)⟩,
    ⟨_, (h (s .stopping 1) _ _ (m _ _)).2.1 (by decide) rfl⟩,
    ⟨_, (h (s .loaded 1) _ _ (m _ _)).2.2.1 (by decide) (by decide) (by decide)⟩,
    ⟨_, (h (s .running 0) _ _ (m _ _)).2.2.2.1 (by decide) rfl, rfl, rfl⟩, ?_⟩
  obtain ⟨t, e, -, -, l⟩ := (h (s .running 1) _ _ (m _ _)).2.2.2.2 rfl rfl (lines _ ⟨rfl, rfl, rfl, rfl⟩) rfl
  obtain ⟨b, l⟩ := l 1 rfl (Or.inr rfl) rfl rfl
  exact ⟨t, e, by rw [l], by rw [l]; rfl⟩

theorem met_RetestEntersARecord (h : Obligations.RetestEntersARecord) :
    let s := fun (points : List Point) (run : RunState) (p : List Byte) => askedOf (rsqOf points run) p
    Runs .retest (s [point 1 .done] .stopping (retest 1 2 0)) ∧ Runs .retest (s [] .empty (retest 1 2 0))
      ∧ Runs .retest (s [point 1 .measuring] .running (retest 1 2 0))
      ∧ Runs .retest (s (List.replicate 96 (point 1 .done)) .halted (retest 1 2 0))
      ∧ Runs .retest (s [point 1 .done] .halted (retest 1 1 0))
      ∧ Runs .retest (s [point 1 .done] .halted (retest 1 2 40))
      ∧ ∃ t, exec .retest (s [point 1 .cancelled] .finished (retest 1 2 39)) = .next t ∧ t.blk.rsq.orderList = [2] := by
  intro s
  have m : ∀ points run o q d, (s points run (retest o q d)).mayServe ⟨3, retest o q d⟩ [] .retest :=
    fun points run o q d => (serves ⟨rfl, rfl, rfl, rfl, rfl⟩ (Or.inl rfl))
  refine ⟨⟨_, (h (s [point 1 .done] .stopping (retest 1 2 0)) _ _ (m _ _ _ _ _)).1 rfl⟩,
    ⟨_, ((h (s [] .empty (retest 1 2 0)) _ _ (m _ _ _ _ _)).2 (by decide)).1 (by decide)⟩,
    ⟨_, (((h (s [point 1 .measuring] .running (retest 1 2 0)) _ _ (m _ _ _ _ _)).2 (by decide)).2
      (point 1 .measuring) rfl).1 (by decide)⟩,
    ⟨_, (((h (s (List.replicate 96 (point 1 .done)) .halted (retest 1 2 0)) _ _ (m _ _ _ _ _)).2 (by decide)).2
      (point 1 .done) rfl).2.1 (Or.inl rfl) (by decide)⟩,
    ⟨_, (((h (s [point 1 .done] .halted (retest 1 1 0)) _ _ (m _ _ _ _ _)).2 (by decide)).2
      (point 1 .done) rfl).2.2.1 (Or.inl rfl) (by decide) (by decide)⟩,
    ⟨_, ((((h (s [point 1 .done] .halted (retest 1 2 40)) _ _ (m _ _ _ _ _)).2 (by decide)).2
      (point 1 .done) rfl).2.2.2 (Or.inl rfl) (by decide) (by decide)).1
      (by rintro ⟨-, a, -⟩; revert a; decide)⟩, ?_⟩
  exact ⟨_, ((((h (s [point 1 .cancelled] .finished (retest 1 2 39)) _ _ (m _ _ _ _ _)).2 (by decide)).2
    (point 1 .cancelled) rfl).2.2.2 (Or.inr (Or.inr rfl)) (by decide) (by decide)).2
    (by unfold RetestArgs.Acceptable; decide +kernel), rfl⟩

theorem met_ClearplanEmptiesThePlan (h : Obligations.ClearplanEmptiesThePlan) :
    let s := fun (run : RunState) (tx : Tx) =>
      askedOf (rsqOf [point 1 .done] run) [7] { blk with lki := { blk.lki with tx := tx } }
    Runs .clearplan (s .stopping .idle)
      ∧ (∃ t, exec .clearplan (s .halted (.sending (.result 1 3 [] true))) = .next t ∧ t.blk.rsq.points = []
          ∧ t.blk.lki.tx = .sending (.result 1 3 [] false))
      ∧ ∃ t, exec .clearplan (s .finished .idle) = .next t ∧ t.blk.lki.tx = .idle := by
  intro s
  have m : ∀ run tx, (s run tx).mayServe ⟨3, [7]⟩ [] .clearplan :=
    fun run tx => (serves ⟨rfl, rfl, rfl, rfl, rfl⟩ (Or.inl rfl))
  refine ⟨⟨_, (h (s .stopping .idle) _ _ (m _ _)).1 (Or.inr rfl)⟩, ?_, ?_⟩
  · obtain ⟨t, e, b, a, -⟩ := (h (s .halted (.sending (.result 1 3 [] true))) _ _ (m _ _)).2 (by decide) (by decide)
    exact ⟨t, e, by rw [b], a 1 3 [] true rfl⟩
  · obtain ⟨t, e, -, -, a⟩ := (h (s .finished .idle) _ _ (m _ _)).2 (by decide) (by decide)
    exact ⟨t, e, a (by intro q w p b; exact Tx.noConfusion)⟩

theorem met_ReadRequestsAnswer (h : Obligations.ReadRequestsAnswer) :
    let pt := fun (p : List Byte) => askedOf (rsqOf [point 1 .done] .halted) p
    Runs .readpt (pt [8, 0, 1, 2]) ∧ Runs .readpt (pt [8, 0, 2, 1]) ∧ Runs .readpt (pt [8, 0, 1, 0])
      ∧ Runs .readpt (pt [8, 0, 1, 1]) ∧ (asked [10]).blk.statLayout.length = 32 ∧ Runs .readpeers (pt [11, 3])
      ∧ Runs .readpeers (pt [11, 2]) ∧ Runs .readcount (pt [12, 2]) ∧ Runs .readcount (pt [12, 0])
      ∧ Runs .readcount (pt [12, 1]) ∧ Runs .clearnote (pt [13, 1, 2, 3, 4, 5, 6]) := by
  intro pt
  have t : ∀ p, (pt p).mayTake ⟨3, p⟩ [] := fun p => ⟨rfl, (by decide : 0 < 6)⟩
  have m : ∀ p c, Request.code ⟨3, p⟩ = some c → Request.lengthOk ⟨3, p⟩ c = true → (pt p).mayServe ⟨3, p⟩ [] c :=
    fun p c a b => serves ⟨rfl, rfl, rfl, a, b⟩ (Or.inl rfl)
  have f : ∀ p, (pt p).blk.rsq.find 1 = some (point 1 .done) := fun p => rfl
  refine ⟨⟨_, ((h (pt [8, 0, 1, 2]) _ _).1 (m _ _ rfl rfl)).1 (by decide)⟩,
    ⟨_, ((h (pt [8, 0, 2, 1]) _ _).1 (m _ _ rfl rfl)).2.1 (by decide) rfl⟩,
    ⟨_, ((((h (pt [8, 0, 1, 0]) _ _).1 (m _ _ rfl rfl)).2.2 (point 1 .done) rfl).1 rfl).2⟩,
    ⟨_, ((((h (pt [8, 0, 1, 1]) _ _).1 (m _ _ rfl rfl)).2.2 (point 1 .done) rfl).2 rfl).2⟩,
    ((h (asked [10]) ⟨3, [10]⟩ []).2.1 ⟨rfl, by decide⟩ rfl rfl).1,
    ⟨_, ((h (pt [11, 3]) _ _).2.2.1 (t _) rfl rfl (by decide)).1 (by decide)⟩,
    ⟨_, ((h (pt [11, 2]) _ _).2.2.1 (t _) rfl rfl (by decide)).2 (by decide)⟩,
    ⟨_, ((h (pt [12, 2]) _ _).2.2.2.1 (m _ _ rfl rfl)).1 (by decide)⟩,
    ⟨_, ((h (pt [12, 0]) _ _).2.2.2.1 (m _ _ rfl rfl)).2.1 rfl⟩,
    ⟨_, ((h (pt [12, 1]) _ _).2.2.2.1 (m _ _ rfl rfl)).2.2 rfl⟩, ?_⟩
  obtain ⟨u, e, -⟩ := (h (pt [13, 1, 2, 3, 4, 5, 6]) _ _).2.2.2.2 (m _ _ rfl rfl)
  exact ⟨u, e⟩

/-- A request to read rows of the frame of point 9, which is in bank 1. -/
def reading (readout : Option Readout) (row count : Byte) (hold : Byte := 1) (b : Blocks := blk) : State :=
  asked [9, 0, 9, 0, row, 255, count, hold] { b with
    riu := { b.riu with
      readout := readout
      tags := b.riu.tags.set 1 { BankTag.free with state := .filled, owner := some 9, serial := some 1, hold := true } } }

/-- Point 1 in NOW, its capture in WAITBANK: bank 0 FILLED under point 8 and held. -/
def waitsForBank : Blocks :=
  { blk with
    rsq := { rsqOf [point 1 .viewing] .running with now := some { seq := 1, cond := .capturing } }
    riu := { blk.riu with
      counter := 9
      tags := blk.riu.tags.set 0 { BankTag.free with
        state := .filled, owner := some 8, serial := some 5, hold := true, expiry := 100000 }
      capture := some
        { seq := 1, objective := 2, windowTop := 32, edge := .outer, search := .short, bank := none, cond := .waitBank
          abandon := false, stamp := 0, arriving := false } } }

/-- A release of the hold lets a capture in WAITBANK choose again; the bank read is no choice, so with bank 0 held it waits on. -/
theorem met_ReadrowsWithACaptureInWaitbank (h : Obligations.ReadrowsStartsAReadout) :
    let s := reading none 255 32 0 waitsForBank
    let u := reading none 255 32 0 { waitsForBank with riu := { waitsForBank.riu with
      tags := waitsForBank.riu.tags.set 0 { BankTag.free with state := .filled, owner := some 8, serial := some 5 } } }
    (∃ t, exec .readrows s = .next t ∧ t.blk.riu.capture.map (·.cond) = some .waitBank ∧ t.blk.riu.tags[1].hold = false)
      ∧ ∃ t, exec .readrows u = .next t ∧ t.blk.riu.capture.map (·.bank) = some (some 0) ∧ t.blk.bcu.own ≠ .idle := by
  intro s u
  have r : Request.code ⟨3, [9, 0, 9, 0, 255, 255, 32, 0]⟩ = some .readrows := rfl
  refine ⟨?_, ?_⟩
  · obtain ⟨t, e, -, p⟩ := (h s ⟨3, [9, 0, 9, 0, 255, 255, 32, 0]⟩ [] (serves ⟨rfl, rfl, rfl, r, rfl⟩ (Or.inl rfl))).2.2.2 1
      (by decide) ⟨rfl, Or.inl rfl⟩ (by decide +kernel) rfl (Or.inl (Or.inr ⟨1, rfl, rfl⟩)) (lines _ ⟨rfl, rfl, rfl, rfl⟩)
    obtain ⟨-, -, -, -, -, -, -, -, w, -⟩ := p.2 _ rfl rfl
    have w := (w (by decide +kernel)).1
    exact ⟨t, e, by rw [w]; decide +kernel, by rw [w]; decide +kernel⟩
  · obtain ⟨t, e, -, p⟩ := (h u ⟨3, [9, 0, 9, 0, 255, 255, 32, 0]⟩ [] (serves ⟨rfl, rfl, rfl, r, rfl⟩ (Or.inl rfl))).2.2.2 1
      (by decide) ⟨rfl, Or.inl rfl⟩ (by decide +kernel) rfl (Or.inl (Or.inr ⟨1, rfl, rfl⟩)) (lines _ ⟨rfl, rfl, rfl, rfl⟩)
    obtain ⟨-, -, -, -, -, -, -, -, -, w⟩ := p.2 _ rfl rfl
    obtain ⟨w, -, -, o, -⟩ := w 0 (by decide +kernel)
    exact ⟨t, e, by rw [w]; decide +kernel, by rcases o rfl rfl with o | o <;> rw [o] <;> decide⟩

theorem met_ReadrowsStartsAReadout (h : Obligations.ReadrowsStartsAReadout) :
    Runs .readrows (reading none 255 33) ∧ Runs .readrows (asked [9, 0, 9, 0, 255, 255, 32, 1])
      ∧ Runs .readrows (reading (some ⟨3, 9, 1, 0, 0, 1⟩) 255 32) ∧ Runs .readrows (reading none 255 32) := by
  refine ⟨⟨_, (h (reading none 255 33) ⟨3, _⟩ [] (serves ⟨rfl, rfl, rfl, rfl, rfl⟩ (Or.inl rfl))).1 (by decide)⟩,
    ⟨_, (h (asked [9, 0, 9, 0, 255, 255, 32, 1]) ⟨3, _⟩ [] (serves ⟨rfl, rfl, rfl, rfl, rfl⟩ (Or.inl rfl))).2.1
      (by decide) (by decide +kernel)⟩,
    ⟨_, (h (reading (some ⟨3, 9, 1, 0, 0, 1⟩) 255 32) ⟨3, _⟩ [] (serves ⟨rfl, rfl, rfl, rfl, rfl⟩ (Or.inl rfl))).2.2.1
      (by decide) ⟨1, rfl, Or.inl rfl⟩ (by decide)⟩, ?_⟩
  obtain ⟨t, e, -⟩ := (h (reading none 255 32) ⟨3, _⟩ [] (serves ⟨rfl, rfl, rfl, rfl, rfl⟩ (Or.inl rfl))).2.2.2 1
    (by decide) ⟨rfl, Or.inl rfl⟩ (by decide +kernel) rfl (Or.inr ⟨rfl, rfl⟩) (lines _ ⟨rfl, rfl, rfl, rfl⟩)
  exact ⟨t, e⟩

theorem met_ParkAndUnpark (h : Obligations.ParkAndUnpark) :
    (∃ t, exec .park (asked [14]) = .next t ∧ lampOutput t.blk = none) ∧ Runs .park (askedOf (rsqOf [] .running) [14])
      ∧ (∃ t, exec .unpark (asked [15] { blk with phase := .parked }) = .next t ∧ lampOutput t.blk = some 32)
      ∧ Runs .unpark (asked [15]) := by
  refine ⟨?_, ⟨_, ((h (askedOf (rsqOf [] .running) [14]) _ _).1 (serves ⟨rfl, rfl, rfl, rfl, rfl⟩ (Or.inl rfl))).2
    (Or.inr (Or.inl rfl))⟩, ?_,
    ⟨_, ((h (asked [15]) _ _).2 (serves ⟨rfl, rfl, rfl, rfl, rfl⟩ (Or.inl rfl))).2 rfl⟩⟩
  · obtain ⟨t, e, l, -⟩ := ((h (asked [14]) _ _).1 (serves ⟨rfl, rfl, rfl, rfl, rfl⟩ (Or.inl rfl))).1 rfl (by decide)
      (by decide)
    exact ⟨t, e, l⟩
  · obtain ⟨t, e, l, -⟩ := ((h (asked [15] { blk with phase := .parked }) _ _).2
      (serves ⟨rfl, rfl, rfl, rfl, rfl⟩ (Or.inr rfl))).1 rfl
    exact ⟨t, e, l⟩

theorem met_ResetstnClearsTheStation (h : Obligations.ResetstnClearsTheStation) :
    Runs .resetstn (asked [16] { blk with phase := .parked })
      ∧ (∃ t, exec .resetstn (askedOf (rsqOf [point 1 .done] .halted) [16]) = .next t ∧ t.blk.rsq = Rsq.reset)
      ∧ ∃ t, exec .resetstn (indenting .running [16]) = .next t ∧ t.blk.ldu.cause = some .halted := by
  refine ⟨⟨_, (h (asked [16] { blk with phase := .parked }) _ _ (serves ⟨rfl, rfl, rfl, rfl, rfl⟩ (Or.inr rfl))).1 rfl⟩,
    ?_, ?_⟩
  · obtain ⟨t, e, -, -, -, -, -, -, a, -⟩ := (h (askedOf (rsqOf [point 1 .done] .halted) [16]) _ _
      (serves ⟨rfl, rfl, rfl, rfl, rfl⟩ (Or.inl rfl))).2.1 rfl (by decide) (by decide) (lines _ ⟨rfl, rfl, rfl, rfl⟩)
    exact ⟨t, e, a⟩
  · obtain ⟨t, e, -, -, -, -, a⟩ := (h (indenting .running [16]) _ _
      (serves ⟨rfl, rfl, rfl, rfl, rfl⟩ (Or.inl rfl))).2.2.2 1 rfl rfl rfl (lines _ ⟨rfl, rfl, rfl, rfl⟩) rfl (Or.inr rfl)
      rfl rfl rfl
    exact ⟨t, e, a⟩

/-! ### Obligations applied: the bench -/

/-- The station with this coordination unit. -/
def onBcu (c : Bcu) : State := on { blk with bcu := c }

/-- The station in an own state with its sense delay started `n` ticks ago. -/
def sensing (o : OwnState) (a : Announce) (who : List Claimant) (quietIn motionIn : Bool) (sense : Timer) (b : Blocks := blk) :
    State :=
  on { b with bcu := { bcuIn o a who with quietIn := quietIn, motionIn := motionIn, sense := sense, benchQueue := [0] } }

theorem test_eligible :
    (sensing .waitMove .waitMove [.adu] false false none).blk.bcu.motionEligible 0 1 = true
      ∧ (sensing .waitMove .waitMove [.adu] true false none).blk.bcu.motionEligible 0 1 = false
      ∧ (sensing .waitQuiet .waitQuiet [.ldu] true false none).blk.bcu.quietEligible 0 = true
      ∧ (sensing .waitQuiet .waitQuiet [.ldu] true true none).blk.bcu.quietEligible 0 = false := by decide +kernel

theorem met_LineLevelsAreSensed (h : Obligations.LineLevelsAreSensed) :
    (∃ t, exec (.lineAsserts .quiet) ready = .next t ∧ t.blk.bcu.sensed .quiet = true ∧ t.blk.rpu = Rpu.reset)
      ∧ (∃ t, exec (.lineReleases .motion) (onBcu { blk.bcu with motionIn := true }) = .next t
          ∧ t.blk.bcu.sensed .motion = false)
      ∧ (∃ t, exec (.lineReleases .quiet) (sensing .waitMove .waitMove [.adu] true false none) = .next t
          ∧ t.blk.bcu.own = .starting)
      ∧ ∃ t, exec (.lineReleases .motion) (sensing .waitQuiet .waitQuiet [.ldu] false true none) = .next t
          ∧ t.blk.bcu.own = .holding ∧ t.blk.bcu.sense = some 100000 := by
  refine ⟨?_, ?_, ?_, ?_⟩
  · obtain ⟨t, e, -, -, -, a, r⟩ := (h ready .quiet).1
    exact ⟨t, e, a, r (lines _ ⟨rfl, rfl, rfl, rfl⟩)⟩
  · obtain ⟨t, e, -, -, -, a, -⟩ := (h (onBcu { blk.bcu with motionIn := true }) .motion).2.1 (by decide) (by decide)
    exact ⟨t, e, a⟩
  · obtain ⟨t, e, -⟩ := (h (sensing .waitMove .waitMove [.adu] true false none) .quiet).2.2 (Or.inl ⟨rfl, rfl, rfl⟩)
    exact ⟨t, e, by cases Host.Outcome.next.inj e; decide +kernel⟩
  · obtain ⟨t, e, -⟩ := (h (sensing .waitQuiet .waitQuiet [.ldu] false true none) .motion).2.2 (Or.inr ⟨rfl, rfl, rfl⟩)
    exact ⟨t, e, by cases Host.Outcome.next.inj e; decide +kernel⟩

/-- The stuck lines given, sensed asserted. -/
def stuckLines (q m : Bool) : State :=
  onBcu { blk.bcu with
    quietIn := q, motionIn := m, quietStuck := { timer := none, stuck := q }, motionStuck := { timer := none, stuck := m } }

/-- The release of the last stuck line ends LINESTUCK, which is raised again under BOTH; while the other is stuck nothing is raised. -/
theorem met_LastStuckLineReleases (h : Obligations.LineLevelsAreSensed) :
    (∃ t, exec (.lineReleases .quiet) (stuckLines true false) = .next t ∧ t.blk.rpu.isSet .lineStuck = true
        ∧ t.blk.rpu.notice = .pending)
      ∧ ∃ t, exec (.lineReleases .quiet) (stuckLines true true) = .next t ∧ t.blk.rpu = Rpu.reset := by
  have ok : ∀ m, (stuckLines true m).blk.LinesOk := by
    intro m l
    cases l <;> cases m <;> exact ⟨by decide +kernel, by decide +kernel⟩
  refine ⟨?_, ?_⟩
  · obtain ⟨t, e, -, -, -, -, r⟩ := (h (stuckLines true false) .quiet).2.1 (by decide) (by decide)
    have r := (r (ok _)).1 ⟨rfl, by decide, by intro l n; cases l; exact absurd rfl n; rfl⟩
    exact ⟨t, e, by rw [r]; decide +kernel, by rw [r]; decide +kernel⟩
  · obtain ⟨t, e, -, -, -, -, r⟩ := (h (stuckLines true true) .quiet).2.1 (by decide) (by decide)
    exact ⟨t, e, (r (ok _)).2 fun a => Bool.noConfusion (a.2.2 .motion (by decide))⟩

/-- An axis of a move. -/
def goal (target : Int) (p : AxisProgress) : Option AxisGoal := some { target := target, progress := p }

/-- A move of point 1 to (70, 0), with the progress of its axes. -/
def toPoint (c : MoveCond) (px py : AxisProgress) : Move :=
  { Move.toPoint 1 70 0 with cond := c, x := goal 70 px, y := goal 0 py }

/-- `b` with a move in hand, in flight as the move of point 1, which is in NEXT. -/
def carrying (m : Move) (b : Blocks := blk) : Blocks :=
  { b with
    adu := { b.adu with move := some m }
    rsq := { Rsq.reset with
      points := [point 1 .waiting], group := some { order := [1], indenter := 0, objective := 2 }, phase := some .indent
      next := some { seq := 1, cond := .travelling }, moveInFlight := some (.point 1), run := .running } }

/-- A mover at the end of its sense delay with QUIET asserted. -/
def withdrawing : State :=
  onBcu { (sensing .checking .moving [.adu] true false (some 99998)).blk.bcu with
    quietStuck := { timer := some 99000, stuck := false } }

theorem met_MotionSenseDecides (h : Obligations.MotionSenseDecides) :
    (∃ t, exec .motionSenseExpiry withdrawing = .next t
        ∧ t.blk.bcu.own = .waitMove ∧ t.blk.rpu.isSet .withdrawn = true ∧ t.blk.rpu.notice = .pending)
      ∧ (∃ t, exec .motionSenseExpiry (sensing .checking .moving [.adu] false false (some 99998)
            (carrying (toPoint .claiming .driving .driving))) = .next t
          ∧ t.blk.bcu.own = .moving ∧ (t.blk.adu.axis .stageX).cmd = some .home)
      ∧ ∃ t, exec .motionSenseExpiry (sensing .checking .moving [.adu] false false (some 99998)
            (carrying (toPoint .claiming .driving .driving)
              { blk with adu := { blk.adu with
                x := { blk.adu.x with known := true }, y := { blk.adu.y with known := true } } })) = .next t
          ∧ (t.blk.adu.axis .stageX).cmd = some (.drive 70) ∧ t.blk.adu.axis .stageY = { blk.adu.y with known := true } := by
  refine ⟨?_, ?_, ?_⟩
  · have ok : withdrawing.blk.LinesOk := by
      intro l
      cases l <;> exact ⟨by decide +kernel, by decide +kernel⟩
    obtain ⟨t, e, -, a, -, -, -, -, -, -, -, b, c, -⟩ := (h withdrawing 99998 rfl rfl (by decide)).1 rfl
    exact ⟨t, e, a, b, by rw [c ok rfl]; decide +kernel⟩
  · obtain ⟨t, e, -, -, -, -, -, -, a⟩ := (h (sensing .checking .moving [.adu] false false (some 99998)
      (carrying (toPoint .claiming .driving .driving))) 99998 rfl rfl (by decide)).2 _ rfl rfl rfl rfl (by decide)
    obtain ⟨b, -, c⟩ := (a .stageX _ rfl).1 rfl
    exact ⟨t, e, c, by rw [b]⟩
  · obtain ⟨t, e, -, -, -, -, -, -, a⟩ := (h (sensing .checking .moving [.adu] false false (some 99998)
      (carrying (toPoint .claiming .driving .driving)
        { blk with adu := { blk.adu with x := { blk.adu.x with known := true }, y := { blk.adu.y with known := true } } }))
      99998 rfl rfl (by decide)).2 _ rfl rfl rfl rfl (by decide)
    exact ⟨t, e, by rw [((a .stageX _ rfl).2.2 rfl (by decide)).1], ((a .stageY _ rfl).2.1 rfl rfl).1⟩

/-- Point 1 in NOW, its order in the LDU, waiting for the grant. -/
def lduWaits : Blocks :=
  { blk with
    rsq := { rsqOf [point 1 .indenting] .running with now := some { seq := 1, cond := .indenting } }
    ldu := { Ldu.reset with
      phase := .waitGrant, order := some { seq := 1, force := 1000, dwell := 100 }, silence := some 99900
      window := List.replicate 16 5 } }

/-- Point 1 in NOW, its capture claiming. -/
def riuWaits : Blocks :=
  { blk with
    rsq := { rsqOf [point 1 .viewing] .running with now := some { seq := 1, cond := .capturing } }
    adu := { blk.adu with f := { blk.adu.f with known := true, pos := 8950 }, memory := Vector.replicate 6 9000 }
    riu := { blk.riu with
      tags := blk.riu.tags.set 0 { BankTag.free with state := .target }
      capture := some
        { seq := 1, objective := 2, windowTop := 32, edge := .outer, search := .short, bank := some 0, cond := .claiming
          abandon := false, stamp := 0, arriving := false } } }

theorem met_QuietGrantReachesItsClaimant (h : Obligations.QuietGrantReachesItsClaimant) :
    Runs .quietSenseExpiry (sensing .holding .waitQuiet [.ldu] false true (some 99998))
      ∧ (∃ t, exec .quietSenseExpiry (sensing .holding .waitQuiet [.ldu] false false (some 99998) lduWaits) = .next t
          ∧ t.blk.ldu.phase = .approach ∧ t.blk.ldu.tare = 5)
      ∧ (∃ t, exec (.lineReleases .motion) (sensing .holding .waitQuiet [.ldu] false true none lduWaits) = .next t
          ∧ t.blk.ldu.phase = .approach)
      ∧ ∃ t, exec .quietSenseExpiry (sensing .holding .waitQuiet [.riu] false false (some 99998) riuWaits) = .next t
          ∧ t.blk.adu.step.isSome = true := by
  refine ⟨⟨_, (h (sensing .holding .waitQuiet [.ldu] false true (some 99998)) .quietSenseExpiry rfl).1
    ⟨_, rfl, by decide⟩ rfl⟩, ?_, ?_, ?_⟩
  · obtain ⟨t, e, -, -, -, -, -, -, -, -, -, a⟩ := ((h (sensing .holding .waitQuiet [.ldu] false false (some 99998) lduWaits)
      .quietSenseExpiry rfl).2 (Or.inl ⟨rfl, ⟨_, rfl, by decide⟩, rfl⟩) _ _ 1 rfl).1 rfl rfl rfl rfl
    exact ⟨t, e, by rw [a], by rw [a]; decide +kernel⟩
  · obtain ⟨t, e, -, -, -, -, -, -, -, -, -, a⟩ := ((h (sensing .holding .waitQuiet [.ldu] false true none lduWaits)
      (.lineReleases .motion) rfl).2 (Or.inr ⟨rfl, rfl, rfl⟩) _ _ 1 rfl).1 rfl rfl rfl rfl
    exact ⟨t, e, by rw [a]⟩
  · obtain ⟨t, e, -, -, -, -, -, -, -, -, -, a⟩ := ((h (sensing .holding .waitQuiet [.riu] false false (some 99998) riuWaits)
      .quietSenseExpiry rfl).2 (Or.inl ⟨rfl, ⟨_, rfl, by decide⟩, rfl⟩) _ _ 1 rfl).2 _ rfl rfl rfl rfl rfl
    exact ⟨t, e, a⟩

/-- The station SETTLING after the move `m`, 100 ms since, the sequencer at `r`. -/
def settling (m : Move) (r : Rsq) (clash : Bool := false) : State :=
  on { blk with
    adu := { blk.adu with move := some m }, rsq := r
    bcu := { bcuIn .settling .settling [.adu] with settle := some 99000, clash := clash } }

/-- The group of points 1 and 2 in a phase, with a point move in flight. -/
def grouped (phase : GroupPhase) (points : List Point) (q : Seq) (now : Option NowSlot) : Rsq :=
  { rsqOf points .running with
    group := some { order := [1, 2], indenter := 0, objective := 2 }, phase := some phase, now := now
    next := some { seq := q, cond := .travelling }, moveInFlight := some (.point q) }

/-- The view move of point 2, ended. -/
def viewed : Move := { Move.toView 2 0 0 9000 with cond := .ended }

theorem met_SettleEndsTheClaim (h : Obligations.SettleEndsTheClaim) :
    let pointed := toPoint .ended .arrived .arrived
    let one := (carrying pointed).rsq
    let two := fun now => grouped .view [point 1 .viewing, point 2 .indented] 2 now
    let turned := { Move.toTurret 0 with cond := .ended }
    let phased := { one with next := none, groupList := [1], moveInFlight := some .phaseMove }
    let ending := { one with draining := true, run := .stopping, next := none }
    (∃ t, exec .settleExpiry (settling pointed one true) = .next t ∧ t.blk.bcu.own = .blocked)
      ∧ (∃ t, exec .settleExpiry (settling pointed one) = .next t ∧ t.blk.ldu.phase = .waitGrant
          ∧ t.blk.bcu.own = .waitQuiet ∧ t.blk.bcu.claims.length = 1)
      ∧ (∃ t, exec .settleExpiry (settling viewed (two (some { seq := 1, cond := .capturing }))) = .next t
          ∧ t.blk.rsq.stageAt = some 2 ∧ t.blk.bcu.own = .idle)
      ∧ (∃ t, exec .settleExpiry (settling viewed (two none)) = .next t ∧ t.blk.riu.capture.isSome = true)
      ∧ (∃ t, exec .settleExpiry (settling turned phased) = .next t ∧ t.blk.rsq.moveInFlight = some (.point 1))
      ∧ (∃ t, exec .settleExpiry (settling { pointed with cond := .endedStopped, stopMark := true } ending) = .next t
          ∧ t.blk.rsq.run = .halted)
      ∧ ∃ t, exec .settleExpiry (settling { pointed with faultMark := true } ending) = .next t ∧ t.blk.rsq.run = .halted := by
  intro pointed one two turned phased ending
  have go := fun m r clash (c : m.cond = .ended ∨ m.cond = .endedStopped) (l : m.claimless = false) =>
    h (settling m r clash) 99000 m _ [] rfl rfl (by decide : 1000 ≤ (100000 - 99000 : Stamp).toNat) rfl c l rfl
      ⟨by show 1 ≤ 2; decide, fun _ => rfl⟩
  refine ⟨?_, ?_, ?_, ?_, ?_, ?_, ?_⟩
  · obtain ⟨t, e, -, -, -, -, -, -, a, -⟩ := go pointed one true (Or.inl rfl) rfl
    exact ⟨t, e, (a rfl).1⟩
  · obtain ⟨t, e, -, -, -, -, -, -, -, -, a, -⟩ := go pointed one false (Or.inl rfl) rfl
    obtain ⟨-, -, -, l, -⟩ := a 1 _ ⟨rfl, rfl, rfl⟩ rfl rfl rfl rfl
    exact ⟨t, e, l, by cases Host.Outcome.next.inj e; decide +kernel⟩
  · obtain ⟨t, e, -, -, -, -, -, -, -, -, -, a, -⟩ :=
      go viewed (two (some { seq := 1, cond := .capturing })) false (Or.inl rfl) rfl
    obtain ⟨-, -, -, r⟩ := a 2 _ ⟨rfl, rfl, rfl⟩ rfl rfl rfl rfl (Or.inl rfl) rfl (by decide)
    exact ⟨t, e, by rw [r], by cases Host.Outcome.next.inj e; decide +kernel⟩
  · obtain ⟨t, e, -, -, -, -, -, -, -, -, -, -, a, -⟩ := go viewed (two none) false (Or.inl rfl) rfl
    obtain ⟨-, -, -, r, -⟩ := a 2 (point 2 .indented) ⟨rfl, rfl, rfl⟩ rfl rfl rfl rfl rfl rfl (by decide) rfl rfl
    exact ⟨t, e, by rw [r]; rfl⟩
  · obtain ⟨t, e, -, -, -, -, -, -, -, -, -, -, -, a, -⟩ := go turned phased false (Or.inl rfl) rfl
    obtain ⟨-, -, -, -, -, r⟩ := a _ .indent 1 [] (point 1 .waiting) ⟨rfl, rfl, rfl⟩ rfl rfl rfl rfl rfl rfl rfl (fun _ => rfl)
      (by decide) (by decide) (by decide) (by decide) (by decide +kernel)
    exact ⟨t, e, by rw [r]⟩
  · obtain ⟨t, e, -, -, -, -, -, -, -, -, -, -, -, -, a⟩ :=
      go { pointed with cond := .endedStopped, stopMark := true } ending false (Or.inr rfl) rfl
    obtain ⟨-, -, -, r, -⟩ := a (Or.inl rfl) rfl rfl rfl rfl
    exact ⟨t, e, by rw [(r (by decide)).1]; rfl⟩
  · obtain ⟨t, e, -, -, -, -, -, -, -, -, -, -, -, -, a⟩ :=
      go { pointed with faultMark := true } ending false (Or.inl rfl) rfl
    obtain ⟨-, -, -, r, -⟩ := a (Or.inr rfl) rfl rfl rfl rfl
    exact ⟨t, e, by rw [(r (by decide)).1]; rfl⟩

/-- Station 4 last heard WAITQUIET, a second ago. -/
def hearing : Bcu :=
  { blk.bcu with
    peers := blk.bcu.peers.set 4 { announced := .heard .waitQuiet, run := none, work := none, stamp := some 90000 }
    benchQueue := [4] }

theorem met_BenchTimersExpire (h : Obligations.BenchTimersExpire) :
    Runs .refreshExpiry (onBcu { bcuIn .quiet .quiet [.ldu] with refresh := some 97500 })
      ∧ (∃ t, exec (.silenceExpiry 4) (onBcu hearing) = .next t ∧ t.blk.bcu.benchQueue = []
          ∧ t.blk.rpu.isSet .peerLost = true ∧ t.blk.rpu.notice = .pending)
      ∧ ∃ t, exec (.stuckExpiry .quiet)
            (onBcu { blk.bcu with quietIn := true, quietStuck := { timer := some 50000, stuck := false } }) = .next t
          ∧ t.blk.bcu.lineStuck = true := by
  refine ⟨⟨_, (h (onBcu { bcuIn .quiet .quiet [.ldu] with refresh := some 97500 })).1 97500 .quiet rfl (by decide)
    (by decide) rfl⟩, ?_, ?_⟩
  · obtain ⟨t, e, -, -, -, a, -, -, -, r, -⟩ := (h (onBcu hearing)).2.1 4 .waitQuiet 90000 (by decide) (by decide) rfl
      (by decide) rfl (by decide)
    have r := r (lines _ ⟨rfl, rfl, rfl, rfl⟩)
    exact ⟨t, e, a, by rw [r]; decide +kernel, by rw [r]; decide +kernel⟩
  · obtain ⟨t, e, -, -, -, a, -⟩ := (h (onBcu { blk.bcu with
      quietIn := true, quietStuck := { timer := some 50000, stuck := false } })).2.2 .quiet 50000 rfl (by decide)
    exact ⟨t, e, a⟩

/-! ### Obligations applied: the axes -/

theorem met_ClaimlessMovesAreReported (h : Obligations.ClaimlessMovesAreReported) :
    let m := { toPoint .ended .arrived .arrived with claimless := true }
    let f := { m with faultMark := true }
    let s := on (carrying f { blk with adu := blk.adu })
    let d := on { s.blk with rsq := { s.blk.rsq with draining := true } }
    (∃ t, exec .noMotionReport (on (carrying m)) = .next t ∧ t.blk.ldu.phase = .waitGrant)
      ∧ (∃ t, exec .moveFaultEndReport d = .next t ∧ t.blk.rsq.run = .halted ∧ t.blk.rsq.orderList = [1])
      ∧ exec .noMotionReport d = .next d ∧ exec .moveFaultEndReport (on (carrying m)) = .next (on (carrying m)) := by
  intro m f s d
  refine ⟨?_, ?_, (h d f rfl rfl).2.2.1 rfl, (h (on (carrying m)) m rfl rfl).2.2.2 rfl⟩
  · obtain ⟨t, e, -, -, -, -, -, a, -⟩ := (h (on (carrying m)) m rfl rfl).1 1 (point 1 .waiting) rfl rfl rfl rfl rfl rfl rfl
      rfl ⟨(by decide : 0 ≤ 2), fun _ => rfl⟩
    exact ⟨t, e, a⟩
  · obtain ⟨t, e, -, -, -, -, -, a⟩ := (h d f rfl rfl).2.1 rfl rfl rfl rfl rfl (by decide)
    exact ⟨t, e, by rw [a]; decide +kernel, by rw [a]; decide +kernel⟩

/-- A phase move to turret position `target`, its index in progress. -/
def indexing (target : TurretPos) (p : AxisProgress) (t : Turret) (n : Nat := 0) : State :=
  on { blk with
    adu := { blk.adu with
      turret := t, homingCount := n, gap := some 85000, f := { blk.adu.f with known := true }
      move := some { Move.toTurret target with
        cond := .driving, turret := some { target := target, progress := p }, f := goal 0 .arrived } }
    rsq := { Rsq.reset with
      group := some { order := [1], indenter := 0, objective := 2 }, groupList := [1], phase := some .indent
      points := [point 1 .waiting], moveInFlight := some .phaseMove, run := .running } }

/-- The focus of that phase move still retracts. -/
def focusRetracting (p : AxisProgress) (turret : Turret) : State :=
  let b := (indexing 3 .driving turret).blk
  on { b with adu := { b.adu with move := b.adu.move.map fun m => { m with f := goal 0 p } } }

/-- A phase move to position 3 about to be granted, the focus at 0. -/
def turning (turret : Turret) : State :=
  sensing .checking .moving [.adu] false false (some 99998)
    { (indexing 3 .driving turret).blk with
      adu := { blk.adu with turret := turret, f := { blk.adu.f with known := true }, move := some (Move.toTurret 3) } }

theorem met_IndexPulsesCountTheTurret (h : Obligations.IndexPulsesCountTheTurret) :
    (∃ t, exec (.indexPulse true) (indexing 3 .driving (.at 2)) = .next t ∧ t.blk.rpu.isSet .turretFault = true)
      ∧ (∃ t, exec (.indexPulse true) ready = .next t ∧ t.blk.adu.turret = .unknown)
      ∧ (∃ t, exec (.axisArrived .focus) (focusRetracting .driving (.at 2)) = .next t
          ∧ t.blk.adu.turret = .indexing (some 2) .forward)
      ∧ (∃ t, exec (.axisHome .focus) (focusRetracting .homing (.at 3)) = .next t ∧ t.blk.adu.turret = .at 3)
      ∧ (∃ t, exec .motionSenseExpiry (turning .unknown) = .next t ∧ t.blk.adu.turret = .indexing none .forward)
      ∧ (∃ t, exec (.indexPulse true) (indexing 0 .driving (.indexing (some 5) .forward)) = .next t
          ∧ t.blk.adu.turret = .at 0)
      ∧ Runs (.indexPulse false) (indexing 2 .driving (.indexing (some 0) .forward))
      ∧ (∃ t, exec (.indexPulse false) (indexing 2 .stopping (.indexing (some 0) .forward)) = .next t
          ∧ t.blk.adu.turret = .at 1)
      ∧ (∃ t, exec (.indexPulse false) (indexing 0 .driving (.indexing (some 1) .reverse)) = .next t
          ∧ t.blk.rpu.isSet .turretFault = true)
      ∧ (∃ t, exec (.indexPulse false) (indexing 4 .homing (.indexing none .forward) 7) = .next t
          ∧ t.blk.adu.homingCount = 8)
      ∧ (∃ t, exec (.indexPulse false) (indexing 4 .homing (.indexing none .forward) 8) = .next t
          ∧ t.blk.rpu.isSet .turretFault = true)
      ∧ (∃ t, exec (.indexPulse true) (indexing 0 .homing (.indexing none .forward)) = .next t
          ∧ t.blk.adu.turret = .at 0)
      ∧ (∃ t, exec (.indexPulse true) (indexing 3 .homing (.indexing none .forward) 8) = .next t
          ∧ t.blk.adu.turret = .indexing (some 0) .forward)
      ∧ ∃ t, exec .gapTimerExpiry (indexing 2 .driving (.indexing (some 0) .forward)) = .next t
          ∧ t.blk.rpu.isSet .turretFault = true := by
  have go := fun (s : State) mark m g (a : s.blk.rsq.moveInFlight ≠ none) b c => (h s mark).2 m g a b c
  refine ⟨?_, ?_, ?_, ?_, ?_, ?_, ?_, ?_, ?_, ?_, ?_, ?_, ?_, ?_⟩
  · obtain ⟨t, e, -, a, -⟩ := (h (indexing 3 .driving (.at 2)) true).1 (Or.inr ⟨2, rfl⟩) (by decide)
    exact ⟨t, e, a⟩
  · obtain ⟨t, e, -, -, a, -⟩ := (h ready true).1 (Or.inl rfl) (by decide)
    exact ⟨t, e, a⟩
  · obtain ⟨t, e, -, a, -⟩ := (go (focusRetracting .driving (.at 2)) true _ _ (by decide) rfl rfl).1 (.axisArrived .focus) rfl rfl
      (Or.inr ⟨2, rfl⟩) (Or.inl ⟨rfl, rfl⟩)
    exact ⟨t, e, (a 2 rfl (by decide)).1⟩
  · obtain ⟨t, e, -, -, a, -⟩ := (go (focusRetracting .homing (.at 3)) true _ _ (by decide) rfl rfl).1 (.axisHome .focus) rfl rfl
      (Or.inr ⟨3, rfl⟩) (Or.inr ⟨rfl, rfl⟩)
    exact ⟨t, e, (a rfl).1⟩
  · obtain ⟨t, e, -, -, -, a⟩ := (go (turning .unknown) true (Move.toTurret 3) _ (by decide) rfl rfl).2.1 99998 rfl rfl rfl rfl
      rfl (by decide) rfl (Or.inl rfl) rfl rfl rfl
    exact ⟨t, e, (a rfl).1⟩
  · obtain ⟨t, e, -, a, -⟩ := (go (indexing 0 .driving (.indexing (some 5) .forward)) true _ _ (by decide) rfl rfl).2.2.1 _ _
      rfl rfl (Or.inl rfl)
    exact ⟨t, e, (a rfl (Or.inl rfl)).2.1⟩
  · obtain ⟨t, e, -, -, a, -⟩ := (go (indexing 2 .driving (.indexing (some 0) .forward)) false _ _ (by decide) rfl rfl).2.2.1
      _ _ rfl rfl (Or.inl rfl)
    exact ⟨_, e.trans (congrArg _ (a rfl (by decide) rfl))⟩
  · obtain ⟨t, e, -, a, -⟩ := (go (indexing 2 .stopping (.indexing (some 0) .forward)) false _ _ (by decide) rfl rfl).2.2.1
      _ _ rfl rfl (Or.inr rfl)
    exact ⟨t, e, (a rfl (Or.inr rfl)).2.1⟩
  · obtain ⟨t, e, -, -, -, a⟩ := (go (indexing 0 .driving (.indexing (some 1) .reverse)) false _ _ (by decide) rfl rfl).2.2.1
      _ _ rfl rfl (Or.inl rfl)
    exact ⟨t, e, (a (by decide)).1⟩
  · obtain ⟨t, e, -, a, -⟩ := (go (indexing 4 .homing (.indexing none .forward) 7) false _ _ (by decide) rfl rfl).2.2.2.1 _
      rfl rfl (Or.inl rfl)
    exact ⟨t, e, by rw [a rfl (by decide)]; rfl⟩
  · obtain ⟨t, e, -, -, a, -⟩ := (go (indexing 4 .homing (.indexing none .forward) 8) false _ _ (by decide) rfl rfl).2.2.2.1 _
      rfl rfl (Or.inl rfl)
    exact ⟨t, e, (a rfl (by decide)).1⟩
  · obtain ⟨t, e, -, -, -, a, -⟩ := (go (indexing 0 .homing (.indexing none .forward)) true _ _ (by decide) rfl rfl).2.2.2.1 _
      rfl rfl (Or.inl rfl)
    exact ⟨t, e, (a rfl (Or.inl rfl)).2.1⟩
  · obtain ⟨t, e, -, -, -, -, a⟩ := (go (indexing 3 .homing (.indexing none .forward) 8) true _ _ (by decide) rfl
      rfl).2.2.2.1 _ rfl rfl (Or.inl rfl)
    exact ⟨t, e, by rw [a rfl (by decide) rfl]; rfl⟩
  · obtain ⟨t, e, -, a, -⟩ := (go (indexing 2 .driving (.indexing (some 0) .forward)) true _ _ (by decide) rfl rfl).2.2.2.2
      _ _ 85000 rfl rfl (by decide) rfl
    exact ⟨t, e, a⟩

/-- The move of point 1 driven, with the progress of its x axis. -/
def driven (p : AxisProgress) (known : Bool := true) (target : Int := 70) : State :=
  on (carrying { toPoint .driving p .driving with x := goal target p }
    { blk with adu := { blk.adu with x := { blk.adu.x with known := known, timer := some 50000 } } })

/-- The capture of `riuWaits` stepping, QUIET granted. -/
def stepping (noop : Bool) : State :=
  on { riuWaits with
    bcu := bcuIn .quiet .quiet [.riu]
    adu := { riuWaits.adu with step := some { target := 8950, noop := noop } }
    riu := { riuWaits.riu with capture := riuWaits.riu.capture.map fun c => { c with cond := .stepping } } }

theorem met_AxisAnswersAreTaken (h : Obligations.AxisAnswersAreTaken) :
    (∃ t, exec (.axisArrived .stageX) (driven .driving) = .next t ∧ (t.blk.adu.axis .stageX).pos = 70)
      ∧ (∃ t, exec (.axisArrived .stageX) (driven .stopping) = .next t ∧ (t.blk.adu.axis .stageX).pos = 70)
      ∧ (∃ t, exec (.axisStopped .stageX 500000) (driven .stopping) = .next t ∧ (t.blk.adu.axis .stageX).pos = 500000)
      ∧ Runs (.axisStopped .stageX 500001) (driven .stopping)
      ∧ (∃ t, exec (.axisStopped .stageX 500000) (driven .stopping false) = .next t ∧ (t.blk.adu.axis .stageX).pos = 0)
      ∧ (∃ t, exec (.axisHome .stageX) (driven .homing false) = .next t
          ∧ (t.blk.adu.axis .stageX).cmd = some (.drive 70))
      ∧ (∃ t, exec (.axisHome .stageX) (driven .homing false 0) = .next t ∧ (t.blk.adu.axis .stageX).known = true)
      ∧ (∃ t, exec (.axisHome .stageX) (driven .stopping false) = .next t ∧ (t.blk.adu.axis .stageX).known = true)
      ∧ exec (.axisArrived .stageY) ready = .next ready ∧ exec (.axisHome .focus) ready = .next ready
      ∧ exec (.axisStopped .focus 20000) ready = .next ready
      ∧ Runs (.axisArrived .focus) (stepping false) ∧ Runs .focusStepNoopDone (stepping true) := by
  have go := fun p known target => (h (driven p known target) .stageX .stageX rfl).1 _ { target := target, progress := p }
    (by show some (MoveRef.point 1) ≠ none; decide) rfl rfl rfl
  refine ⟨?_, ?_, ?_, ?_, ?_, ?_, ?_, ?_, ((h ready .stageY .stageY rfl).2.1 rfl rfl).1,
    ((h ready .focus .focus rfl).2.1 rfl rfl).2.1, ((h ready .focus .focus rfl).2.1 rfl rfl).2.2 20000, ?_, ?_⟩
  · obtain ⟨t, e, -, a, -⟩ := (go .driving true 70).1 (Or.inl rfl)
    exact ⟨t, e, by rw [a]⟩
  · obtain ⟨t, e, -, a, -⟩ := (go .stopping true 70).1 (Or.inr ⟨rfl, rfl⟩)
    exact ⟨t, e, by rw [a]⟩
  · obtain ⟨t, v, e, -, f, a, -⟩ := (go .stopping true 70).2.1 500000 rfl
    exact ⟨t, e, by rw [a]; exact (f rfl).1⟩
  · obtain ⟨t, v, e, -⟩ := (go .stopping true 70).2.1 500001 rfl
    exact ⟨t, e⟩
  · obtain ⟨t, v, e, -, -, a, -⟩ := (go .stopping false 70).2.1 500000 rfl
    exact ⟨t, e, by rw [a]; rfl⟩
  · obtain ⟨t, e, -, a, -⟩ := (go .homing false 70).2.2.1 rfl
    exact ⟨t, e, by rw [(a (by decide)).1]⟩
  · obtain ⟨t, e, -, -, a⟩ := (go .homing false 0).2.2.1 rfl
    exact ⟨t, e, by rw [(a rfl).1]⟩
  · obtain ⟨t, e, -, a, -⟩ := (go .stopping false 70).2.2.2 rfl rfl
    exact ⟨t, e, by rw [a]⟩
  · obtain ⟨t, e, -⟩ := (((h (stepping false) .focus .focus rfl).2.2.1 8950 _ 1 rfl (lines _ ⟨rfl, rfl, rfl, rfl⟩) rfl rfl rfl
      rfl rfl).1 rfl)
    exact ⟨t, e⟩
  · obtain ⟨t, e, -⟩ := (((h (stepping true) .focus .focus rfl).2.2.1 8950 _ 1 rfl (lines _ ⟨rfl, rfl, rfl, rfl⟩) rfl rfl rfl
      rfl rfl).2 rfl)
    exact ⟨t, e⟩

/-- The stepping capture with its abandon mark set, its group draining; point 31 measured or nobody. -/
def abandoning (noop : Bool) (m : Option Measurement := none) : State :=
  let b := (stepping noop).blk
  on { b with
    ggu := m, riu := { b.riu with capture := b.riu.capture.map fun c => { c with abandon := true } }
    rsq := { b.rsq with
      draining := true, run := .stopping, phase := some .view
      group := some { order := [31, 1], indenter := 0, objective := 2 }
      last := m.map fun m => { seq := m.seq, values := m.values } } }

/-- A step done abandons the marked capture: with no measurement going the run stops, else the point returns to the group. -/
theorem met_StepDoneAbandonsTheCapture (h : Obligations.AxisAnswersAreTaken) :
    (∃ t, exec (.axisArrived .focus) (abandoning false) = .next t ∧ t.blk.rsq.run = .halted ∧ t.blk.bcu.own = .idle)
      ∧ ∃ t, exec .focusStepNoopDone (abandoning true (some measure31)) = .next t ∧ t.blk.rsq.groupList = [1]
          ∧ t.blk.riu.capture = none := by
  refine ⟨?_, ?_⟩
  · obtain ⟨t, e, -, a⟩ := ((h (abandoning false) .focus .focus rfl).2.2.2 8950 _ 1 rfl rfl rfl rfl rfl ⟨rfl, rfl, rfl⟩ rfl rfl
      rfl rfl rfl rfl).1 rfl
    obtain ⟨own, -, -, -, -, -, -, -, -, -, r, -⟩ := a
    exact ⟨t, e, by rw [((r rfl).1 (by decide)).1]; decide +kernel, own⟩
  · obtain ⟨t, e, -, -, -, a, -, -, -, -, -, -, -, -, b⟩ := ((h (abandoning true (some measure31)) .focus .focus rfl).2.2.2 8950 _ 1 rfl
      rfl rfl rfl rfl ⟨rfl, rfl, rfl⟩ rfl rfl rfl rfl rfl rfl).2 rfl
    obtain ⟨-, -, r⟩ := b (by decide) (by decide) (by decide) (by decide) (by decide)
    exact ⟨t, e, by rw [r]; decide +kernel, a⟩

/-- The capture of `riuWaits` about to be granted, a measurement going. -/
def grantingUnknown : State :=
  sensing .holding .waitQuiet [.riu] false false (some 99998)
    { riuWaits with adu := { riuWaits.adu with f := { riuWaits.adu.f with known := false } }, ggu := some measure31 }

/-- The view move of point 2 driven while point 1 is CAPTURED. -/
def viewing : State :=
  on { blk with
    adu := { blk.adu with move := some { viewed with cond := .driving } }
    rsq := grouped .view [point 1 .viewing, point 2 .indented] 2
      (some { seq := 1, cond := .captured measure31.values }) }

theorem met_AxisFaultsAreTaken (h : Obligations.AxisFaultsAreTaken) :
    (∃ t, exec (.axisDriverFault .focus) ready = .next t ∧ t.blk.rpu.isSet .focusFault = true)
      ∧ (∃ t, exec (.axisDriverFault .turret) ready = .next t ∧ t.blk.rpu.isSet .turretFault = true)
      ∧ (∃ t, exec (.axisDriverFault .turret) (indexing 3 .driving (.at 2)) = .next t ∧ t.blk.adu.turret = .unknown)
      ∧ (∃ t, exec (.axisDriverFault .turret) (indexing 3 .driving (.indexing (some 2) .forward)) = .next t
          ∧ t.blk.rpu.isSet .turretFault = true)
      ∧ (∃ t, exec (.axisDriverFault .stageX) (driven .stopping) = .next t ∧ t.blk.rpu.isSet .stageFault = true
          ∧ t.blk.rsq.run = .stopping)
      ∧ (∃ t, exec (.axisDriverFault .stageX) viewing = .next t ∧ t.blk.rsq.groupList = [1])
      ∧ (∃ t, exec (.axisTimerExpiry .stageX) (driven .homing false) = .next t
          ∧ (t.blk.adu.axis .stageY).cmd = some .stop)
      ∧ (∃ t, exec (.axisDriverFault .focus) (stepping false) = .next t ∧ t.blk.bcu.own = .idle)
      ∧ (∃ t, exec .quietSenseExpiry grantingUnknown = .next t ∧ t.blk.bcu.own = .idle)
      ∧ ∃ t, exec (.axisTimerExpiry .focus)
            (on { (stepping false).blk with adu := { (stepping false).blk.adu with
              f := { (stepping false).blk.adu.f with timer := some 80000 } } }) = .next t ∧ t.blk.bcu.own = .idle := by
  refine ⟨?_, ?_, ?_, ?_, ?_, ?_, ?_, ?_, ?_, ?_⟩
  · obtain ⟨t, e, a, -⟩ := (h ready .focus).1 rfl rfl
    exact ⟨t, e, by rw [a]; decide +kernel⟩
  · obtain ⟨t, e, -, a, -⟩ := (h ready .focus).2.1 (Or.inl rfl) (by decide)
    exact ⟨t, e, a⟩
  · obtain ⟨t, e, -, -, a, -⟩ := (h (indexing 3 .driving (.at 2)) .focus).2.1 (Or.inr ⟨2, rfl⟩) (by decide)
    exact ⟨t, e, a⟩
  · obtain ⟨t, e, -, a, -⟩ := (h (indexing 3 .driving (.indexing (some 2) .forward)) .focus).2.2.1 _ _ _ _ (by decide) rfl rfl
      rfl rfl
    exact ⟨t, e, a⟩
  · obtain ⟨t, e, -, a, -, -, -, -, -, -, k, -, -, -, -, b⟩ := (h (driven .stopping) .stageX).2.2.2.1
      (.axisDriverFault .stageX) _ _ (Or.inl rfl) (by decide) rfl rfl rfl (Or.inr (Or.inr rfl))
    exact ⟨t, e, a, by rw [(((b (fun n x => by cases x)).2.2 rfl (Or.inl rfl) (by decide)).1 (Or.inr rfl)).1]⟩
  · obtain ⟨t, e, -, -, -, -, -, -, -, -, k, -, -, -, -, b⟩ := (h viewing .stageX).2.2.2.1 (.axisDriverFault .stageX) _ _
      (Or.inl rfl) (by decide) rfl rfl rfl (Or.inr (Or.inl rfl))
    refine ⟨t, e, ?_⟩
    rw [((b (fun n x => by cases x; exact ⟨NowCond.noConfusion, NowCond.noConfusion⟩)).2.2 rfl (Or.inl rfl) (by decide)).2 1
      _ rfl rfl (by decide) (by decide) (by decide) (by decide)]
    decide +kernel
  · obtain ⟨t, e, -, -, -, -, -, -, -, a, -⟩ := (h (driven .homing false) .stageX).2.2.2.1 (.axisTimerExpiry .stageX) _ _
      (Or.inr ⟨rfl, 50000, rfl, by decide⟩) (by decide) rfl rfl rfl (Or.inl rfl)
    exact ⟨t, e, by rw [a]; rfl⟩
  · obtain ⟨t, e, -, -, -, a, -⟩ := (h (stepping false) .focus).2.2.2.2 (.axisDriverFault .focus) _ 1 0
      (Or.inl ⟨rfl, rfl, rfl, Or.inl rfl⟩) rfl rfl rfl ⟨rfl, rfl, rfl⟩ rfl rfl rfl rfl rfl (Or.inl rfl) (by decide)
    exact ⟨t, e, a⟩
  · obtain ⟨t, e, -, -, -, a, -⟩ := (h grantingUnknown .focus).2.2.2.2 .quietSenseExpiry _ 1 0
      (Or.inr ⟨rfl, rfl, rfl, rfl, rfl, rfl, 99998, rfl, by decide⟩) rfl rfl rfl ⟨rfl, rfl, rfl⟩ rfl rfl rfl rfl rfl
      (Or.inl rfl) (by decide)
    exact ⟨t, e, a⟩
  · obtain ⟨t, e, -, -, -, a, -⟩ := (h (on { (stepping false).blk with adu := { (stepping false).blk.adu with
      f := { (stepping false).blk.adu.f with timer := some 80000 } } }) .focus).2.2.2.2 (.axisTimerExpiry .focus) _ 1 0
      (Or.inl ⟨rfl, rfl, rfl, Or.inr ⟨rfl, 80000, rfl, by decide⟩⟩) rfl rfl rfl ⟨rfl, rfl, rfl⟩ rfl rfl rfl rfl rfl
      (Or.inl rfl) (by decide)
    exact ⟨t, e, a⟩

/-! ### Obligations applied: the drain, part by part (R40 to R44, R46) -/

/-- `b` with a request of its own to serve and a run going. -/
def runningWith (b : Blocks) : Blocks :=
  { b with lki := blk.lki, phase := .ready, rsq := { b.rsq with run := .running } }

/-- What the start of a drain by HALT finds of `b`. -/
def drainingBy (payload : List Byte) (b : Blocks) : Blocks :=
  let b := runningWith b
  { b with
    lki := (asked payload b).blk.lki.answered ⟨3, payload⟩ [] .done []
    rsq := { b.rsq with run := .stopping, draining := true } }

/-- HALT IMMEDIATE drains `b`. -/
theorem halts (h : Obligations.HaltStopsTheRun) (b : Blocks)
    (l : b.bcu.quietStuck = StuckWatch.off ∧ b.bcu.motionStuck = StuckWatch.off ∧ b.bcu.suspect .quiet = false
      ∧ b.bcu.suspect .motion = false) :
    ∃ t, exec .halt (asked [5, 1] (runningWith b)) = .next t ∧ Blocks.Drains (drainingBy [5, 1] b) t.blk ready.site := by
  obtain ⟨t, e, -, d, -⟩ := (h (asked [5, 1] (runningWith b)) ⟨3, [5, 1]⟩ []
    (serves ⟨rfl, rfl, rfl, rfl, rfl⟩ (Or.inl rfl))).2.2.2.2 rfl rfl (lines _ l) rfl
  exact ⟨t, e, d⟩

/-- What the start of a drain by RESETSTN finds of `b`. -/
def resettingBy (b : Blocks) : Blocks :=
  let b := runningWith b
  { b with
    phase := .resetting, resetSender := some 3, lki := { b.lki with recv := [], reserved := b.lki.reserved + 1 }
    rsq := { b.rsq with draining := true } }

/-- RESETSTN drains `b`. -/
theorem resets (h : Obligations.ResetstnClearsTheStation) (b : Blocks) (d : b.rsq.draining = false)
    (l : b.bcu.quietStuck = StuckWatch.off ∧ b.bcu.motionStuck = StuckWatch.off ∧ b.bcu.suspect .quiet = false
      ∧ b.bcu.suspect .motion = false) :
    ∃ t, exec .resetstn (asked [16] (runningWith b)) = .next t ∧ Blocks.Drains (resettingBy b) t.blk ready.site := by
  obtain ⟨t, e, -, d⟩ := (h (asked [16] (runningWith b)) ⟨3, [16]⟩ []
    (serves ⟨rfl, rfl, rfl, rfl, rfl⟩ (Or.inl rfl))).2.2.1 rfl (Or.inl rfl) d (lines _ l)
  exact ⟨t, e, d⟩

/-- Point 1 in NOW with the load unit in `phase`. -/
def indentIn (phase : LoadPhase) : Blocks :=
  { lduWaits with bcu := bcuIn .waitQuiet .waitQuiet [.ldu], ldu := { lduWaits.ldu with phase := phase, pos := 700 } }

theorem met_IndentsDrain (h : Obligations.HaltStopsTheRun) (g : Obligations.ResetstnClearsTheStation) :
    (∃ t, exec .halt (asked [5, 1] (runningWith (indentIn .approach))) = .next t ∧ t.blk.ldu.phase = .retract
        ∧ t.blk.ldu.cause = some .halted)
      ∧ (∃ t, exec .halt (asked [5, 1] (runningWith (indentIn .unloading))) = .next t ∧ t.blk.ldu.phase = .unloading)
      ∧ (∃ t, exec .halt (asked [5, 1] (runningWith (indentIn .waitGrant))) = .next t ∧ t.blk.rsq.run = .finished)
      ∧ ∃ t, exec .resetstn (asked [16] (runningWith (indentIn .waitGrant))) = .next t ∧ t.blk.phase = .ready
          ∧ t.blk.rsq = Rsq.reset := by
  refine ⟨?_, ?_, ?_, ?_⟩
  · obtain ⟨t, e, -, d, -⟩ := halts h (indentIn .approach) ⟨rfl, rfl, rfl, rfl⟩
    have k := (d 1 rfl ⟨rfl, rfl, rfl⟩).2.1 rfl rfl (by decide)
    exact ⟨t, e, by rw [k]; rfl, by rw [k]; rfl⟩
  · obtain ⟨t, e, -, d, -⟩ := halts h (indentIn .unloading) ⟨rfl, rfl, rfl, rfl⟩
    exact ⟨t, e, by rw [(d 1 rfl ⟨rfl, rfl, rfl⟩).2.2.1 (Or.inl rfl)]; rfl⟩
  · obtain ⟨t, e, -, d, -⟩ := halts h (indentIn .waitGrant) ⟨rfl, rfl, rfl, rfl⟩
    obtain ⟨-, -, -, -, -, s⟩ := (d 1 rfl ⟨rfl, rfl, rfl⟩).2.2.2 rfl rfl ⟨_, rfl, rfl⟩ rfl ⟨rfl, rfl, rfl⟩ (Or.inl rfl)
    exact ⟨t, e, by rw [(s.1 (by decide)).1]; rfl⟩
  · obtain ⟨t, e, -, d, -⟩ := resets g (indentIn .waitGrant) rfl ⟨rfl, rfl, rfl, rfl⟩
    obtain ⟨-, -, -, -, -, s⟩ := (d 1 rfl ⟨rfl, rfl, rfl⟩).2.2.2 rfl rfl ⟨_, rfl, rfl⟩ rfl ⟨rfl, rfl, rfl⟩ (Or.inl rfl)
    obtain ⟨a, b, -⟩ := s.2 rfl
    exact ⟨t, e, b, a⟩

/-- Point 1 in NOW with its capture at `cond`, the own state and claims those of it. -/
def captureIn (cond : CaptureCond) (bank : Option BankId) (o : OwnState) (a : Announce) (who : List Claimant) : Blocks :=
  { riuWaits with
    bcu := bcuIn o a who
    riu := { riuWaits.riu with capture := riuWaits.riu.capture.map fun c => { c with cond := cond, bank := bank } } }

/-- `b` with a measurement of point 31 in LAST. -/
def measuringToo (b : Blocks) : Blocks :=
  { b with
    ggu := some measure31
    rsq := { b.rsq with
      last := some { seq := 31, values := measure31.values }
      group := some { order := [31, 1], indenter := 0, objective := 2 }, phase := some .view } }

theorem met_CapturesDrain (h : Obligations.HaltStopsTheRun) (g : Obligations.ResetstnClearsTheStation) :
    let framing := captureIn .framing (some 0) .quiet .quiet [.riu]
    let awaiting := captureIn .awaitFrame (some 0) .quiet .quiet [.riu]
    let captured := measuringToo { framing with
      riu := blk.riu, rsq := { framing.rsq with now := some { seq := 1, cond := .captured measure31.values } } }
    (∃ t, exec .halt (asked [5, 1] (runningWith framing)) = .next t
        ∧ (t.blk.riu.capture.map (·.abandon)) = some true)
      ∧ (∃ t, exec .halt (asked [5, 1] (runningWith (captureIn .waitBank none .idle .idle []))) = .next t
          ∧ t.blk.riu.capture = none)
      ∧ (∃ t, exec .halt (asked [5, 1] (runningWith (captureIn .claiming (some 0) .waitQuiet .waitQuiet [.riu]))) = .next t
          ∧ t.blk.bcu.own = .idle)
      ∧ (∃ t, exec .halt (asked [5, 1] (runningWith (captureIn .awaitFrame (some 0) .quiet .quiet [.riu]))) = .next t
          ∧ t.blk.riu.tags[(0 : BankId)].state = .free)
      ∧ (∃ t, exec .halt (asked [5, 1] (runningWith (measuringToo awaiting))) = .next t ∧ t.blk.rsq.groupList = [1])
      ∧ (∃ t, exec .halt (asked [5, 1] (runningWith captured)) = .next t ∧ t.blk.rsq.groupList = [1])
      ∧ ∃ t, exec .resetstn (asked [16] (runningWith (measuringToo framing))) = .next t ∧ t.blk.ggu = none := by
  intro framing awaiting captured
  have ready : ∀ {p : Prop}, StationPhase.ready = .resetting → p := fun a => StationPhase.noConfusion a
  refine ⟨?_, ?_, ?_, ?_, ?_, ?_, ?_⟩
  · obtain ⟨t, e, -, -, d, -⟩ := halts h framing ⟨rfl, rfl, rfl, rfl⟩
    exact ⟨t, e, by rw [(d 1 _ rfl rfl rfl rfl).1 (Or.inr rfl) (by decide)]; rfl⟩
  · obtain ⟨t, e, -, -, d, -⟩ := halts h (captureIn .waitBank none .idle .idle []) ⟨rfl, rfl, rfl, rfl⟩
    exact ⟨t, e, ((d 1 _ rfl rfl rfl rfl).2 (Or.inl ⟨Or.inr rfl, rfl, rfl, rfl, rfl⟩) rfl ready rfl).2.2.1⟩
  · obtain ⟨t, e, -, -, d, -⟩ := halts h (captureIn .claiming (some 0) .waitQuiet .waitQuiet [.riu]) ⟨rfl, rfl, rfl, rfl⟩
    exact ⟨t, e, ((d 1 _ rfl rfl rfl rfl).2 (Or.inr (Or.inl ⟨rfl, ⟨rfl, rfl, rfl⟩, Or.inl rfl⟩)) rfl ready rfl).1⟩
  · obtain ⟨t, e, -, -, d, -⟩ := halts h (captureIn .awaitFrame (some 0) .quiet .quiet [.riu]) ⟨rfl, rfl, rfl, rfl⟩
    obtain ⟨-, -, -, -, -, -, -, -, -, f, -⟩ :=
      (d 1 _ rfl rfl rfl rfl).2 (Or.inr (Or.inr ⟨rfl, ⟨rfl, rfl, rfl⟩, rfl⟩)) rfl ready rfl
    exact ⟨t, e, f 0 rfl rfl⟩
  · obtain ⟨t, e, -, -, d, -⟩ := halts h (measuringToo awaiting) ⟨rfl, rfl, rfl, rfl⟩
    obtain ⟨-, -, -, -, -, -, -, -, -, -, -, f⟩ :=
      (d 1 _ rfl rfl rfl rfl).2 (Or.inr (Or.inr ⟨rfl, ⟨rfl, rfl, rfl⟩, rfl⟩)) rfl ready rfl
    obtain ⟨-, -, r⟩ := f (by decide) (by decide) (by decide) (by decide) (by decide)
    exact ⟨t, e, by rw [r]; decide +kernel⟩
  · obtain ⟨t, e, -, -, -, d, -⟩ := halts h captured ⟨rfl, rfl, rfl, rfl⟩
    refine ⟨t, e, ?_⟩
    rw [d 1 _ _ rfl rfl (by decide) ⟨by decide, by decide, by decide⟩ rfl (by decide) (by decide)]
    rfl
  · obtain ⟨t, e, -, -, -, -, d⟩ := resets g (measuringToo framing) rfl ⟨rfl, rfl, rfl, rfl⟩
    exact ⟨t, e, by rw [d 1 _ _ _ rfl rfl rfl (Or.inr rfl) rfl rfl rfl rfl (by decide) ⟨by decide, by decide, by decide⟩]⟩

theorem met_MovesDrain (h : Obligations.HaltStopsTheRun) :
    let carried := fun (m : Move) (o : OwnState) (a : Announce) => { carrying m with bcu := bcuIn o a [.adu] }
    let pointed := toPoint .ended .arrived .arrived
    (∃ t, exec .halt (asked [5, 1] (runningWith (carried { pointed with faultMark := true } .settling .settling))) = .next t
        ∧ t.blk.adu.move = some { pointed with faultMark := true })
      ∧ (∃ t, exec .halt (asked [5, 1] (runningWith (carried pointed .settling .settling))) = .next t
          ∧ t.blk.adu.move = some { pointed with stopMark := true, cond := .endedStopped })
      ∧ (∃ t, exec .halt (asked [5, 1] (runningWith (carried { pointed with cond := .endedStopped } .settling .settling)))
            = .next t ∧ t.blk.adu.move = some { pointed with cond := .endedStopped })
      ∧ (∃ t, exec .halt (asked [5, 1] (runningWith (carried (toPoint .claiming .driving .driving) .starting .waitMove)))
            = .next t ∧ t.blk.adu.move = none ∧ t.blk.bcu.own = .idle)
      ∧ ∃ t, exec .halt (asked [5, 1] (runningWith (carried (toPoint .driving .driving .arrived) .moving .moving)))
            = .next t ∧ (t.blk.adu.axis .stageX).cmd = some .stop := by
  intro carried pointed
  have go := fun m o a => halts h (carried m o a)
  refine ⟨?_, ?_, ?_, ?_, ?_⟩
  · obtain ⟨t, e, d, -⟩ := go { pointed with faultMark := true } .settling .settling ⟨rfl, rfl, rfl, rfl⟩
    exact ⟨t, e, by rw [(d _ rfl (by decide) rfl (by decide)).1 rfl]; rfl⟩
  · obtain ⟨t, e, d, -⟩ := go pointed .settling .settling ⟨rfl, rfl, rfl, rfl⟩
    exact ⟨t, e, by rw [((d _ rfl (by decide) rfl (by decide)).2 rfl).1 rfl]⟩
  · obtain ⟨t, e, d, -⟩ := go { pointed with cond := .endedStopped } .settling .settling ⟨rfl, rfl, rfl, rfl⟩
    exact ⟨t, e, by rw [((d _ rfl (by decide) rfl (by decide)).2 rfl).2.1 rfl]; rfl⟩
  · obtain ⟨t, e, d, -⟩ := go (toPoint .claiming .driving .driving) .starting .waitMove ⟨rfl, rfl, rfl, rfl⟩
    obtain ⟨o, -, a, -⟩ := ((d _ rfl (by decide) rfl (by decide)).2 rfl).2.2.1 rfl ⟨rfl, rfl, rfl⟩ (Or.inr (Or.inl rfl)) rfl
      rfl rfl
    exact ⟨t, e, by rw [a], o⟩
  · obtain ⟨t, e, d, -⟩ := go (toPoint .driving .driving .arrived) .moving .moving ⟨rfl, rfl, rfl, rfl⟩
    obtain ⟨-, -, -, -, -, -, k, -, -, -, -, -, -, a, -⟩ := ((d _ rfl (by decide) rfl (by decide)).2 rfl).2.2.2 rfl
    exact ⟨t, e, by rw [(a .stageX _ rfl).2]; rfl⟩

/-! ### Obligations applied: the load unit -/

/-- A cell value whose force word is `w` counts under `cfg`. -/
def cell (w : Int) : Sample := BitVec.ofInt 24 (256 * w)

/-- A window of that value: with one more such sample the word is `w`. -/
def window (w : Int) : List Sample := List.replicate 16 (cell w)

/-- Point 1 indenting in a load phase; the next sample `cell w` gives the word `w`. Force 1000, dwell 10 s. -/
def loading (p : LoadPhase) (w : Int) (f : Ldu → Ldu := id) : State :=
  on { blk with
    rsq := { rsqOf [point 1 .indenting] .running with now := some { seq := 1, cond := .indenting } }
    ldu := f { Ldu.reset with
      phase := p, window := window w, pos := 7, order := some { seq := 1, force := 1000, dwell := 100 }
      contact := some { pos := 5, force := 20 }, touching := true, rampStamp := 95000, rampForce := 500 } }

theorem test_force_words :
    ([1000, 1001, -32767, 32767].map fun w => forceOf (window w) 0 4096)
        = [1000, 1001, -32767, 32767]
      ∧ forceOf (List.replicate 16 (BitVec.ofNat 24 8388607)) (-1) 4096 = 32768 := by decide +kernel

/-- What a following event leaves of the load unit and the reports. -/
theorem followed {b b' : Blocks} (h : b.FlowsTo b') : b'.ldu = b.ldu ∧ b'.rpu = b.rpu := by
  rcases h with h | h <;> rw [h] <;> exact ⟨rfl, rfl⟩

theorem met_LoadSampleFormsTheForceWord (h : Obligations.LoadSampleFormsTheForceWord) :
    let s := fun (p : LoadPhase) (w : Int) (n : Nat) (on_ : Bool) =>
      loading p w fun l => { l with touching := on_, runCount := n, tare := if w = 32767 then -1 else 0 }
    (∃ t, exec (.loadSample (cell 20)) (s .retract 20 1 false) = .next t ∧ t.blk.ldu.word = 20
        ∧ t.blk.ldu.touching = true ∧ t.blk.rpu = Rpu.reset)
      ∧ (∃ t, exec (.loadSample (cell 9)) (s .retract 9 0 true) = .next t ∧ t.blk.ldu.touching = true
          ∧ t.blk.ldu.runCount = 1)
      ∧ ∃ t, exec (.loadSample (BitVec.ofNat 24 8388607))
            (loading .retract 0 fun l => { l with
              window := List.replicate 16 (BitVec.ofNat 24 8388607), tare := -1 }) = .next t
          ∧ t.blk.rpu.isSet .forceSat = true := by
  intro s
  have busy : ∀ w f, (loading .retract w f).blk.ldu.phase ≠ .rest → (loading .retract w f).blk.Waits :=
    fun w f p => Or.inl (Or.inl ⟨1, rfl, p⟩)
  refine ⟨?_, ?_, ?_⟩
  · obtain ⟨t, e, -, -, w, a⟩ := h (cell 20) (s .retract 20 1 false)
    obtain ⟨l, r⟩ := followed (a (busy _ _ (by decide)) (lines _ ⟨rfl, rfl, rfl, rfl⟩) (Or.inr (Or.inr rfl)))
    exact ⟨t, e, by rw [w]; decide +kernel, by rw [l]; decide +kernel, by rw [r]; decide +kernel⟩
  · obtain ⟨t, e, -, -, w, a⟩ := h (cell 9) (s .retract 9 0 true)
    obtain ⟨l, -⟩ := followed (a (busy _ _ (by decide)) (lines _ ⟨rfl, rfl, rfl, rfl⟩) (Or.inr (Or.inr rfl)))
    exact ⟨t, e, by rw [l]; decide +kernel, by rw [l]; decide +kernel⟩
  · obtain ⟨t, e, -, -, w, a⟩ := h (BitVec.ofNat 24 8388607) (loading .retract 0 fun l => { l with
      window := List.replicate 16 (BitVec.ofNat 24 8388607), tare := -1 })
    obtain ⟨-, r⟩ := followed (a (busy _ _ (by decide)) (lines _ ⟨rfl, rfl, rfl, rfl⟩) (Or.inr (Or.inr rfl)))
    exact ⟨t, e, by rw [r]; decide +kernel⟩

theorem met_ForceWordsDriveTheIndent (h : Obligations.ForceWordsDriveTheIndent) :
    let after := fun (p : LoadPhase) (w : Int) (f : Ldu → Ldu) (ok : Blocks → Prop) =>
      ∃ t, exec (.loadSample (cell w)) (loading p w f) = .next t ∧ ok t.blk
    let free := fun n : Nat => fun l : Ldu => { l with touching := false, runCount := n }
    let band := fun n : Nat => fun l : Ldu => { l with inBand := true, excursions := n }
    after .approach 20 (free 1) (·.ldu.phase = .loading) ∧ after .approach 19 (free 1) (·.ldu.runCount = 0)
      ∧ after .approach 20 (free 0) (·.ldu.runCount = 1)
      ∧ after .loading 990 id (·.ldu.phase = .dwell) ∧ after .loading 989 id (·.ldu.pos = 8)
      ∧ after .loading 9 id (·.ldu.runCount = 1) ∧ after .loading 1100 id (·.ldu.pos = 7)
      ∧ after .dwell 1010 id (·.ldu.inBand = true) ∧ after .dwell 1011 id (·.ldu.pos = 6)
      ∧ after .dwell 1011 (band 0) (·.ldu.excursions = 1)
      ∧ after .dwell 10 (band 1) (fun b => b.rpu.isSet .loadFail = true ∧ b.ldu.cause = some .unstable)
      ∧ after .unloading 10 id (·.ldu.pos = 6) ∧ after .unloading 9 id (·.ldu.runCount = 1)
      ∧ after .unloading 9 (fun l => { l with runCount := 1, abort := true }) (·.ldu.phase = .retract)
      ∧ after .unloading 100 (fun l => { l with pos := 1 }) (·.ldu.phase = .rest) := by
  intro after free band
  have go := fun p w f (n : (loading p w f).blk.rsq.now = some { seq := 1, cond := .indenting })
      (l : (loading p w f).blk.LinesOk) o a b => h (cell w) (loading p w f) 1 1000 100 n l o a b
  refine ⟨?_, ?_, ?_, ?_, ?_, ?_, ?_, ?_, ?_, ?_, ?_, ?_, ?_, ?_, ?_⟩
  · obtain ⟨t, e, -, a, -⟩ := go .approach 20 (free 1) rfl (lines _ ⟨rfl, rfl, rfl, rfl⟩) rfl (by decide +kernel)
      (by decide +kernel)
    exact ⟨t, e, by beta_reduce; rw [(followed (a rfl rfl (by decide +kernel) (by decide))).1]⟩
  · obtain ⟨t, e, -, -, a, -⟩ := go .approach 19 (free 1) rfl (lines _ ⟨rfl, rfl, rfl, rfl⟩) rfl (by decide +kernel)
      (by decide +kernel)
    exact ⟨t, e, by beta_reduce; rw [(followed (a rfl rfl (by decide +kernel))).1]⟩
  · obtain ⟨t, e, -, -, -, a, -⟩ := go .approach 20 (free 0) rfl (lines _ ⟨rfl, rfl, rfl, rfl⟩) rfl (by decide +kernel)
      (by decide +kernel)
    exact ⟨t, e, by beta_reduce; rw [(followed (a rfl rfl (by decide +kernel) (by decide))).1]; rfl⟩
  · obtain ⟨t, e, -, -, -, -, a, -⟩ := go .loading 990 id rfl (lines _ ⟨rfl, rfl, rfl, rfl⟩) rfl (by decide +kernel)
      (by decide +kernel)
    exact ⟨t, e, by
      beta_reduce
      rw [(followed ((a rfl ⟨rfl, Or.inl (by decide +kernel)⟩ (by decide +kernel)).1 (by decide +kernel))).1]⟩
  · obtain ⟨t, e, -, -, -, -, a, -⟩ := go .loading 989 id rfl (lines _ ⟨rfl, rfl, rfl, rfl⟩) rfl (by decide +kernel)
      (by decide +kernel)
    exact ⟨t, e, by
      beta_reduce
      rw [(followed ((a rfl ⟨rfl, Or.inl (by decide +kernel)⟩ (by decide +kernel)).2.1 (by decide +kernel)
        (by decide +kernel))).1]
      decide +kernel⟩
  · obtain ⟨t, e, -, -, -, -, a, -⟩ := go .loading 9 id rfl (lines _ ⟨rfl, rfl, rfl, rfl⟩) rfl (by decide +kernel)
      (by decide +kernel)
    exact ⟨t, e, by
      beta_reduce
      rw [(followed ((a rfl ⟨rfl, Or.inr (by decide)⟩ (by decide +kernel)).2.1 (by decide +kernel) (by decide +kernel))).1]
      decide +kernel⟩
  · obtain ⟨t, e, -, -, -, -, a, -⟩ := go .loading 1100 id rfl (lines _ ⟨rfl, rfl, rfl, rfl⟩) rfl (by decide +kernel)
      (by decide +kernel)
    exact ⟨t, e, by
      beta_reduce
      rw [(followed ((a rfl ⟨rfl, Or.inl (by decide +kernel)⟩ (by decide +kernel)).2.2 (by decide +kernel)
        (by decide +kernel))).1]
      decide +kernel⟩
  · obtain ⟨t, e, -, -, -, -, -, a, -⟩ := go .dwell 1010 id rfl (lines _ ⟨rfl, rfl, rfl, rfl⟩) rfl (by decide +kernel)
      (by decide +kernel)
    exact ⟨t, e, by
      beta_reduce
      rw [(followed ((a rfl ⟨rfl, Or.inl (by decide +kernel)⟩ (by decide +kernel)).1 (by decide +kernel))).1]⟩
  · obtain ⟨t, e, -, -, -, -, -, a, -⟩ := go .dwell 1011 id rfl (lines _ ⟨rfl, rfl, rfl, rfl⟩) rfl (by decide +kernel)
      (by decide +kernel)
    exact ⟨t, e, by
      beta_reduce
      rw [(followed ((a rfl ⟨rfl, Or.inl (by decide +kernel)⟩ (by decide +kernel)).2.1 (by decide +kernel) rfl)).1]
      decide +kernel⟩
  · obtain ⟨t, e, -, -, -, -, -, a, -⟩ := go .dwell 1011 (band 0) rfl (lines _ ⟨rfl, rfl, rfl, rfl⟩) rfl (by decide +kernel)
      (by decide +kernel)
    exact ⟨t, e, by
      beta_reduce
      rw [(followed ((a rfl ⟨rfl, Or.inl (by decide +kernel)⟩ (by decide +kernel)).2.2.1 (by decide +kernel) rfl
        (by decide))).1]
      rfl⟩
  · obtain ⟨t, e, -, -, -, -, -, a, -⟩ := go .dwell 10 (band 1) rfl (lines _ ⟨rfl, rfl, rfl, rfl⟩) rfl (by decide +kernel)
      (by decide +kernel)
    obtain ⟨l, r⟩ := followed ((a rfl ⟨rfl, Or.inl (by decide +kernel)⟩ (by decide +kernel)).2.2.2 (by decide +kernel) rfl
      (by decide) rfl)
    exact ⟨t, e, by rw [r]; decide +kernel, by rw [l]; rfl⟩
  · obtain ⟨t, e, -, -, -, -, -, -, a⟩ := go .unloading 10 id rfl (lines _ ⟨rfl, rfl, rfl, rfl⟩) rfl (by decide +kernel)
      (by decide +kernel)
    exact ⟨t, e, by
      beta_reduce
      rw [(followed ((a rfl rfl).1 (by decide +kernel) ⟨rfl, Or.inl (by decide +kernel)⟩)).1]
      decide +kernel⟩
  · obtain ⟨t, e, -, -, -, -, -, -, a⟩ := go .unloading 9 id rfl (lines _ ⟨rfl, rfl, rfl, rfl⟩) rfl (by decide +kernel)
      (by decide +kernel)
    exact ⟨t, e, by
      beta_reduce
      rw [(followed ((a rfl rfl).1 (by decide +kernel) ⟨rfl, Or.inr (by decide)⟩)).1]
      decide +kernel⟩
  · obtain ⟨t, e, -, -, -, -, -, -, a⟩ := go .unloading 9 (fun l => { l with runCount := 1, abort := true }) rfl
      (lines _ ⟨rfl, rfl, rfl, rfl⟩) rfl (by decide +kernel) (by decide +kernel)
    exact ⟨t, e, by beta_reduce; rw [(followed ((a rfl rfl).2.1 (by decide +kernel) (by decide +kernel))).1]; rfl⟩
  · obtain ⟨t, e, -, -, -, -, -, -, a⟩ := go .unloading 100 (fun l => { l with pos := 1 }) rfl
      (lines _ ⟨rfl, rfl, rfl, rfl⟩) rfl (by decide +kernel) (by decide +kernel)
    exact ⟨t, e, ((a rfl rfl).2.2 (by decide) (by decide +kernel)).1⟩

theorem met_ForceFailuresEndTheIndent (h : Obligations.ForceFailuresEndTheIndent) :
    let sat := fun p : LoadPhase => loading p 0 fun l => { l with
      window := List.replicate 16 (BitVec.ofNat 24 8388607), tare := -1 }
    let fails := fun (sample : Sample) (s : State) (r : Reason) =>
      ∃ t, exec (.loadSample sample) s = .next t ∧ t.blk.rpu.isSet .loadFail = true ∧ t.blk.ldu.cause = some r
    fails (BitVec.ofNat 24 8388607) (sat .dwell) .forceSat ∧ fails (BitVec.ofNat 24 8388607) (sat .approach) .forceSat
      ∧ fails (cell 1101) (loading .loading 1101) .overload
      ∧ fails (cell 9) (loading .dwell 9 fun l => { l with runCount := 1 }) .contactLost := by
  intro sat fails
  refine ⟨?_, ?_, ?_, ?_⟩
  · obtain ⟨t, e, -, a, -⟩ := h (BitVec.ofNat 24 8388607) (sat .dwell) 1 1000 100 rfl (lines _ ⟨rfl, rfl, rfl, rfl⟩) rfl rfl
      (by decide)
    obtain ⟨l, r⟩ := followed (a (Or.inr rfl) (Or.inr (by decide +kernel)))
    exact ⟨t, e, by rw [r]; decide +kernel, by rw [l]; rfl⟩
  · obtain ⟨t, e, -, -, a, -⟩ := h (BitVec.ofNat 24 8388607) (sat .approach) 1 1000 100 rfl (lines _ ⟨rfl, rfl, rfl, rfl⟩) rfl
      rfl (by decide)
    obtain ⟨l, r⟩ := followed (a rfl (Or.inr (by decide +kernel)))
    exact ⟨t, e, by rw [r]; decide +kernel, by rw [l]; rfl⟩
  · obtain ⟨t, e, -, -, -, a, -⟩ := h (cell 1101) (loading .loading 1101) 1 1000 100 rfl (lines _ ⟨rfl, rfl, rfl, rfl⟩) rfl rfl
      (by decide)
    obtain ⟨l, r⟩ := followed (a (Or.inl rfl) (by decide +kernel) (by decide +kernel))
    exact ⟨t, e, by rw [r]; decide +kernel, by rw [l]; rfl⟩
  · obtain ⟨t, e, -, -, -, -, a⟩ := h (cell 9) (loading .dwell 9 fun l => { l with runCount := 1 }) 1 1000 100 rfl
      (lines _ ⟨rfl, rfl, rfl, rfl⟩) rfl rfl (by decide)
    obtain ⟨l, r⟩ :=
      followed (a (Or.inr rfl) (by decide +kernel) (by decide +kernel) rfl (by decide +kernel) (by decide))
    exact ⟨t, e, by rw [r]; decide +kernel, by rw [l]; rfl⟩

/-- The indent of point 1 before its grant, its cell silent for 50 ms. -/
def silentBeforeGrant : State :=
  on { (indentIn .waitGrant) with
    ldu := { (indentIn .waitGrant).ldu with silence := some 99500, pos := 0 } }

theorem met_LoadTimersExpire (h : Obligations.LoadTimersExpire) :
    let s := fun (p : LoadPhase) (n : Nat) (f : Ldu → Ldu) => loading p 0 fun l => f { l with
      pos := n, step := some 99900, rampSlow := some { start := 0, limit := 100000 }, dwell := some 0
      silence := some 99500 }
    let after := fun (c : Instr) (p : LoadPhase) (n : Nat) (f : Ldu → Ldu) (fails : Bool) (phase : LoadPhase) =>
      ∃ t, exec c (s p n f) = .next t ∧ t.blk.rpu.isSet .loadFail = fails ∧ t.blk.ldu.phase = phase
    after .lduStepTimerExpiry .approach 7999 id false .approach ∧ after .lduStepTimerExpiry .approach 8000 id true .retract
      ∧ after .lduStepTimerExpiry .retract 2 id false .retract ∧ after .rampslowExpiry .loading 7 id true .unloading
      ∧ Runs .dwellExpiry (s .dwell 7 id)
      ∧ (∃ t, exec .loadSilenceExpiry silentBeforeGrant = .next t ∧ t.blk.ldu.phase = .rest)
      ∧ after .loadSilenceExpiry .loading 7 id true .retract
      ∧ after .loadSilenceExpiry .unloading 7 (fun l => { l with abort := true }) false .retract
      ∧ after .loadSilenceExpiry .unloading 7 id true .retract ∧ after .loadSilenceExpiry .retract 7 id true .retract := by
  intro s after
  have go := fun p n f => h (s p n f) 1 rfl (lines _ ⟨rfl, rfl, rfl, rfl⟩)
  refine ⟨?_, ?_, ?_, ⟨_, (go .loading 7 id).2.1 _ rfl rfl (by decide) rfl, by decide +kernel, rfl⟩,
    ⟨_, (go .dwell 7 id).2.2.1 0 _ rfl rfl rfl (by decide)⟩, ?_, ?_, ?_, ?_, ?_⟩
  · obtain ⟨t, e, -, a, -⟩ := (go .approach 7999 id).1 99900 rfl (by decide)
    obtain ⟨l, r⟩ := followed (a rfl (by decide))
    exact ⟨t, e, by rw [r]; decide +kernel, by rw [l]; rfl⟩
  · obtain ⟨t, e, -, -, a, -⟩ := (go .approach 8000 id).1 99900 rfl (by decide)
    obtain ⟨l, r⟩ := followed (a rfl (by decide) (by decide) rfl)
    exact ⟨t, e, by rw [r]; decide +kernel, by rw [l]; rfl⟩
  · obtain ⟨t, e, -, -, -, a⟩ := (go .retract 2 id).1 99900 rfl (by decide)
    obtain ⟨l, r⟩ := followed (a rfl (by decide))
    exact ⟨t, e, by rw [r]; decide +kernel, by rw [l]; rfl⟩
  · obtain ⟨t, e, -, a, -⟩ := (h silentBeforeGrant 1 rfl (lines _ ⟨rfl, rfl, rfl, rfl⟩)).2.2.2.1 99500 _ rfl (by decide) rfl rfl
      rfl ⟨rfl, rfl, rfl⟩ (Or.inl rfl)
    exact ⟨t, e, a⟩
  · obtain ⟨t, e, -, a, -⟩ := (go .loading 7 id).2.2.2.2 99500 rfl (by decide) (by decide)
    obtain ⟨l, r⟩ := followed (a (Or.inr (Or.inl rfl)) rfl)
    exact ⟨t, e, by rw [r]; decide +kernel, by rw [l]; rfl⟩
  · obtain ⟨t, e, -, -, a, -⟩ := (go .unloading 7 fun l => { l with abort := true }).2.2.2.2 99500 rfl (by decide) (by decide)
    obtain ⟨l, r⟩ := followed (a rfl rfl)
    exact ⟨t, e, by rw [r]; decide +kernel, by rw [l]; rfl⟩
  · obtain ⟨t, e, -, -, -, a, -⟩ := (go .unloading 7 id).2.2.2.2 99500 rfl (by decide) (by decide)
    obtain ⟨l, r⟩ := followed (a rfl rfl)
    exact ⟨t, e, by rw [r]; decide +kernel, by rw [l]; rfl⟩
  · obtain ⟨t, e, -, -, -, -, a⟩ := (go .retract 7 id).2.2.2.2 99500 rfl (by decide) (by decide)
    obtain ⟨l, r⟩ := followed (a rfl)
    exact ⟨t, e, by rw [r]; decide +kernel, by rw [l]; rfl⟩

/-- Point 1's indent one step from rest, its quiet claim granted; the group has no other point. -/
def retracting (cause : Option Reason) (draining : Bool) : State :=
  on { blk with
    bcu := bcuIn .quiet .quiet [.ldu]
    rsq := { rsqOf [point 1 .indenting] .running with
      now := some { seq := 1, cond := .indenting }, draining := draining, phase := some .indent
      group := some { order := [1], indenter := 0, objective := 2 } }
    ldu := { Ldu.reset with
      phase := .retract, pos := 1, step := some 99900, cause := cause
      order := some { seq := 1, force := 1000, dwell := 100 } } }

/-- That indent with point 2 in NEXT. -/
def retractingBefore (cause : Option Reason) : State :=
  let b := (retracting cause false).blk
  on { b with
    rsq := { b.rsq with
      points := [point 1 .indenting, point 2 .waiting], next := some { seq := 2, cond := .pending }
      group := some { order := [1, 2], indenter := 0, objective := 2 } } }

/-- The order of point 1. -/
def anOrder : IndentOrder := { seq := 1, force := 1000, dwell := 100 }

/-- What O51 says of the last step of RETRACT there. -/
abbrev retracts (h : Obligations.IndentDeliversItsOutcome) (c : Option Reason) (d : Bool) :=
  h (retracting c d) .lduStepTimerExpiry (retracting c d).blk.ldu 1 (point 1 .indenting) anOrder
    (Or.inl ⟨rfl, rfl, rfl, (by decide : 1 ≤ 1), ⟨rfl, rfl, rfl, rfl⟩, 99900, rfl,
      (by decide : 10000 / 100 ≤ (100000 - 99900 : Stamp).toNat)⟩) rfl rfl rfl rfl rfl

theorem met_IndentDeliversItsOutcome (h : Obligations.IndentDeliversItsOutcome) :
    (∃ t, exec .lduStepTimerExpiry (retracting none true) = .next t ∧ t.blk.bcu.claims = [])
      ∧ (∃ t, exec .lduStepTimerExpiry (retracting (some .overload) true) = .next t
          ∧ t.blk.rpu.counters[Counter.pointsFailed.index] = 1)
      ∧ (∃ t, exec .lduStepTimerExpiry (retractingBefore none) = .next t ∧ t.blk.rsq.groupList = [1])
      ∧ (∃ t, exec .lduStepTimerExpiry (retractingBefore (some .overload)) = .next t ∧ t.blk.rsq.resultQueue = [1])
      ∧ ∃ t, exec .lduStepTimerExpiry (retracting none false) = .next t ∧ (t.blk.bcu.own = .waitMove ∨ t.blk.bcu.own = .starting) := by
  have mid := fun c (n : c ≠ some Reason.halted) => (h (retractingBefore c) .lduStepTimerExpiry (retractingBefore c).blk.ldu 1
    (point 1 .indenting) anOrder (Or.inl ⟨rfl, rfl, rfl, (by decide : 1 ≤ 1), ⟨rfl, rfl, rfl, rfl⟩, 99900, rfl,
      (by decide : 10000 / 100 ≤ (100000 - 99900 : Stamp).toNat)⟩) rfl rfl rfl rfl rfl).2.1 _ 2 (point 2 .waiting) rfl n rfl rfl rfl (by decide) rfl
    (by decide : (-500000 : Int) ≤ 0 + 0) (by decide : (0 : Int) + 0 ≤ 500000) (by decide : (-500000 : Int) ≤ 0 + 0)
    (by decide : (0 : Int) + 0 ≤ 500000) rfl
  refine ⟨?_, ?_, ?_, ?_, ?_⟩
  · obtain ⟨t, e, -, -, -, a, -⟩ := (retracts h none true).1 rfl rfl rfl (by decide)
    exact ⟨t, e, a⟩
  · obtain ⟨t, e, -, -, -, -, -, -, a⟩ := (retracts h (some .overload) true).1 rfl rfl rfl (by decide)
    exact ⟨t, e, a rpuOk (by decide) (by decide)⟩
  · obtain ⟨t, e, -, -, -, -, a⟩ := mid none (by decide)
    exact ⟨t, e, by rw [a]; rfl⟩
  · obtain ⟨t, e, -, -, -, -, a⟩ := mid (some .overload) (by decide)
    exact ⟨t, e, by rw [a]; rfl⟩
  · obtain ⟨t, e, -, -, a, -⟩ := (retracts h none false).2.2.2 { order := [1], indenter := 0, objective := 2 } rfl rfl rfl rfl
      rfl (by decide) (by intro x; exact Turret.noConfusion x)
    exact ⟨t, e, a⟩

/-- Point 1, the group's last, unloading one step above position 0, its end cause taken; `order` waits in the Order List. -/
def unloadingLast (run : RunState) (order : List Seq) : State :=
  let b := (retracting (some .overload) false).blk
  on { b with
    rsq := { b.rsq with run := run, orderList := order, points := point 1 .indenting :: order.map fun q => point q .waiting }
    ldu := { b.ldu with phase := .unloading, window := window 100, touching := true, step := none } }

/-- The step to position 0 in UNLOADING, and a silence before the grant, end the indent too; the failure of the group's last point
finishes the group: HALTED in STOPPING, FINISHED with nothing left, else the next group. -/
theorem met_LastPointFailedFinishesTheGroup (h : Obligations.IndentDeliversItsOutcome) :
    (∃ t, exec (.loadSample (cell 100)) (unloadingLast .stopping [2]) = .next t ∧ t.blk.rsq.run = .halted
        ∧ t.blk.rpu.isSet .groupDone = true)
      ∧ (∃ t, exec (.loadSample (cell 100)) (unloadingLast .running []) = .next t ∧ t.blk.rsq.run = .finished)
      ∧ (∃ t, exec (.loadSample (cell 100)) (unloadingLast .running [2]) = .next t ∧ t.blk.rsq.groupList = [2])
      ∧ ∃ t, exec .loadSilenceExpiry (on { silentBeforeGrant.blk with rsq := { silentBeforeGrant.blk.rsq with draining := true } })
            = .next t ∧ t.blk.rsq.resultQueue = [1] ∧ t.blk.rpu.isSet .loadFail = true ∧ t.blk.bcu.own = .idle := by
  let w := (unloadingLast .running []).blk.ldu.sampled 100000 4096 (cell 100)
  have low : -32767 ≤ forceOf w.window 0 4096 := by decide +kernel
  have high : forceOf w.window 0 4096 ≤ 32767 := by decide +kernel
  have above : max 0 ((0 : Int) - (1000 * (100000 - 0 : Stamp).toNat * 1 / 10000 : Nat)) < w.word := by decide +kernel
  have same : { (unloadingLast .running []).blk.ldu with window := window 100, word := 100, runCount := 0, touching := true }
      = { w with
          touching := !(decide (w.word < 10) && decide (2 ≤ 0 + 1)), runCount := if w.word < 10 ∧ 0 + 1 < 2 then 0 + 1 else 0 } := by
    decide +kernel
  have last := fun run order f =>
    (h (unloadingLast run order) (.loadSample (cell 100))
      { (unloadingLast .running []).blk.ldu with
        window := window 100, word := 100, runCount := 0, touching := true } 1
      (point 1 .indenting) anOrder
      (Or.inr (Or.inl ⟨cell 100, rfl, rfl, rfl, rfl, ⟨rfl, rfl, rfl, rfl⟩, low, high, above, same⟩)) rfl rfl rfl f rfl).2.2.1
      { order := [1], indenter := 0, objective := 2 } .overload rfl rfl (by decide) rfl rfl rfl rfl
  refine ⟨?_, ?_, ?_, ?_⟩
  · obtain ⟨t, e, -, a, b, -⟩ := last .stopping [2] rfl
    exact ⟨t, e, by rw [(b rfl).1]; decide +kernel, a⟩
  · obtain ⟨t, e, -, -, -, b, -⟩ := last .running [] rfl
    exact ⟨t, e, by rw [(b rfl rfl).1]⟩
  · obtain ⟨t, e, -, -, -, -, b⟩ := last .running [2] rfl
    have b := ((b 2 [] (point 2 .waiting) rfl rfl rfl (Or.inl rfl)).1 (by intro x; exact Turret.noConfusion x)).1
    exact ⟨t, e, by rw [b]; decide +kernel⟩
  · obtain ⟨t, e, r, -, o, -, -, b, -⟩ := (h (on { silentBeforeGrant.blk with
        rsq := { silentBeforeGrant.blk.rsq with draining := true } }) .loadSilenceExpiry
      (Ldu.endsFor silentBeforeGrant.blk.ldu 100000 .cellSilent) 1 (point 1 .indenting) anOrder
      (Or.inr (Or.inr ⟨rfl, rfl, rfl, rfl, ⟨rfl, rfl, rfl⟩, Or.inl rfl, 99500, rfl, by decide⟩)) rfl rfl rfl rfl rfl).1 rfl rfl
      rfl (by decide)
    exact ⟨t, e, by rw [b]; rfl, r.2.2.2.2.2.2.2 ⟨rfl, rfl, rfl, rfl, ⟨rfl, rfl, rfl⟩, Or.inl rfl, 99500, rfl, by decide⟩, o⟩

/-! ### Obligations applied: the image path -/

/-- The capture of `rowState n kind`, with its units changed. -/
def imaging (n : Nat) (kind : FrameKind) (f : Riu → Riu := id) (g : Egu → Egu := id) (r : Rsq → Rsq := id) : State :=
  on { rowState n kind with
    riu := f (rowState n kind).riu, egu := g (rowState n kind).egu, rsq := r (rowState n kind).rsq
    adu := { (rowState n kind).adu with f := { blk.adu.f with known := true, pos := 8950 } } }

/-- The capture in another condition, its frame arriving or passed. -/
def atCond (cond : CaptureCond) (arriving : Bool) (r : Riu) : Riu :=
  { r with capture := r.capture.map fun c => { c with cond := cond, arriving := arriving } }

theorem imagingLines (n : Nat) (kind : FrameKind) (f : Riu → Riu) (g : Egu → Egu) (r : Rsq → Rsq) :
    (imaging n kind f g r).blk.LinesOk :=
  lines _ ⟨rfl, rfl, rfl, rfl⟩

theorem imagingWaits (n : Nat) (kind : FrameKind) (f : Riu → Riu) (g : Egu → Egu)
    (h : (f (rowState n kind).riu).capture.isSome = true) : (imaging n kind f g).blk.Waits :=
  Or.inl (Or.inr ⟨1, rfl, h⟩)

/-- A row of one value. -/
def row256 (v : Byte) : Vector Byte 256 := Vector.replicate 256 v

theorem met_FramesStartAndRowsArrive (h : Obligations.FramesStartAndRowsArrive) :
    Runs .frameStart (imaging 40 .final (atCond .awaitFrame false))
      ∧ Runs .frameStart (imaging 40 .search (atCond .awaitFrame false)) ∧ Runs .frameStart ready
      ∧ Runs .frameStart (imaging 40 .final (atCond .framing false)) ∧ Runs .frameStart (imaging 287 .final)
      ∧ exec (.rowArrival (row256 7)) ready = .next ready
      ∧ (∀ n ∈ [320], exec (.rowArrival (row256 7)) (imaging 40 .final fun r => { r with rowCount := some n })
          = .next (imaging 40 .final fun r => { r with rowCount := some n }))
      ∧ Runs (.rowArrival (row256 7)) (imaging 30 .final) ∧ Runs (.rowArrival (row256 7)) (imaging 287 .final)
      ∧ Runs (.rowArrival (row256 7)) (imaging 31 .final) ∧ Runs (.rowArrival (row256 7)) (imaging 286 .final) := by
  refine ⟨⟨_, ((h (imaging 40 .final (atCond .awaitFrame false))).1 _ 0 rfl rfl rfl).1 ⟨_, 1, rfl, rfl⟩⟩,
    ⟨_, ((h (imaging 40 .search (atCond .awaitFrame false))).1 _ 0 rfl rfl rfl).2 ?_⟩,
    ⟨_, (h ready).2.1 (by intro c x; exact nomatch x)⟩,
    ⟨_, (h (imaging 40 .final (atCond .framing false))).2.2.1 _ rfl rfl (Or.inl rfl)⟩,
    ⟨_, (h (imaging 287 .final)).2.2.1 _ rfl rfl (Or.inr (by decide))⟩, ((h ready).2.2.2 _).1 rfl, ?_,
    ⟨_, (((h (imaging 30 .final)).2.2.2 _).2 31 rfl).2.1 (by decide) ?_⟩,
    ⟨_, (((h (imaging 287 .final)).2.2.2 _).2 288 rfl).2.1 (by decide) ?_⟩, ?_, ?_⟩
  · rintro ⟨d, i, a, b⟩
    cases a
    exact nomatch b
  · intro n m
    cases List.mem_singleton.1 m
    exact (((h (imaging 40 .final fun r => { r with rowCount := some 320 })).2.2.2 _).2 320 rfl).1 (by decide)
  · rintro ⟨c, a, -, -, b, -⟩
    cases a
    revert b; decide
  · rintro ⟨c, a, -, -, -, b⟩
    cases a
    revert b; decide
  · obtain ⟨t, e, -⟩ := (((h (imaging 31 .final)).2.2.2 _).2 32 rfl).2.2 (by decide)
      ⟨_, rfl, rfl, rfl, by decide, by decide⟩ (by decide) (imagingWaits _ _ _ _ rfl) (imagingLines _ _ _ _ _)
    exact ⟨t, e⟩
  · obtain ⟨t, e, -⟩ := (((h (imaging 286 .final)).2.2.2 _).2 287 rfl).2.2 (by decide)
      ⟨_, rfl, rfl, rfl, by decide, by decide⟩ (by decide) (imagingWaits _ _ _ _ rfl) (imagingLines _ _ _ _ _)
    exact ⟨t, e⟩

theorem met_QualifiedRunsAreTheDarkRuns (h : Obligations.QualifiedRunsAreTheDarkRuns) :
    (qualifiedRuns 100 3 slicedRow).Pairwise (fun x y => x.last + 1 < y.first) :=
  (h 100 3 slicedRow (by decide +kernel)).2.1

/-- A final frame in progress, the row light up to column 127 and dark from there; the row before dark but for column 130. Column
10 has a qualified run, column 200 one that qualifies now, column 130 none. -/
def scanning : State :=
  imaging 40 .final
    (fun r => { r with rows := [{ number := 40, pixels := List.replicate 128 200 ++ List.replicate 128 10 }] })
    (fun g => { g with
      prev := some { pixels := List.replicate 130 10 ++ [200] ++ List.replicate 125 10, threshold := 50 }
      cols := (((Vector.replicate 256 { run := 9, edge := some 100, qualified := false }).set 10
        { run := 9, edge := some 100, qualified := true }).set 200 { run := 3, edge := some 100, qualified := false }).set 130
        { run := 0, edge := none, qualified := false }
      results := g.results.set 0 { FrameResults.cleared with
        cols := (Vector.replicate 256 none).set 10 (some { top := some 50, bottom := none }) } })

theorem met_RowsAreWrittenAndSliced (h : Obligations.RowsAreWrittenAndSliced) :
    Runs .rowWriteComplete (imaging 40 .final fun r => { r with port := .write false })
      ∧ (∃ t, exec .rowWriteComplete (imaging 286 .final) = .next t ∧ t.blk.egu.kind = some .final)
      ∧ (∃ t, exec .rowWriteComplete (imaging 32 .search) = .next t ∧ t.blk.egu.kind = some .search)
      ∧ ∃ t, exec .rowWriteComplete scanning = .next t
          ∧ t.blk.egu.cols[(130 : Fin 256)].run = 1 ∧ t.blk.egu.cols[(200 : Fin 256)].qualified = true
          ∧ t.blk.egu.cols[(10 : Fin 256)].run = 0
          ∧ t.blk.egu.results[(0 : BankId)].cols[(200 : Fin 256)] = some { top := some 100, bottom := none }
          ∧ ∃ e, t.blk.egu.results[(0 : BankId)].cols[(10 : Fin 256)] = some { top := some 50, bottom := some e } := by
  refine ⟨?_, ?_, ?_, ?_⟩
  · obtain ⟨t, e, -⟩ := (h.2 (imaging 40 .final fun r => { r with port := .write false }) (imagingLines _ _ _ _ _)).1 rfl
      (imagingWaits _ _ _ _ rfl)
    exact ⟨t, e⟩
  · obtain ⟨t, e, -, -, -, -, -, -, -, -, -, a, -⟩ := (h.2 (imaging 286 .final) (imagingLines _ _ _ _ _)).2 _ 0 _ [] rfl rfl rfl
      rfl (by decide) (imagingWaits _ _ _ _ rfl)
    exact ⟨t, e, by rw [a]; rfl⟩
  · obtain ⟨t, e, -, -, -, -, -, -, -, -, -, a, -⟩ := (h.2 (imaging 32 .search) (imagingLines _ _ _ _ _)).2 _ 0 _ [] rfl rfl rfl
      rfl (by decide) (imagingWaits _ _ _ _ rfl)
    exact ⟨t, e, by rw [a]; rfl⟩
  · obtain ⟨t, e, -, -, -, -, -, -, -, -, -, -, -, c, -, f⟩ := (h.2 scanning (imagingLines _ _ _ _ _)).2 _ 0 _ [] rfl rfl rfl rfl
      (by decide) (imagingWaits _ _ _ _ rfl)
    obtain ⟨-, -, -, -, -, f⟩ := f rfl
    have was : ∀ j : Nat, (∃ w, scanning.blk.egu.prev = some w ∧ (w.pixels.getD j 0).toNat < w.threshold)
        ↔ ((List.replicate 130 (10 : Byte) ++ [200] ++ List.replicate 125 10).getD j 0).toNat < 50 :=
      fun j => ⟨by rintro ⟨w, x, y⟩; cases x; exact y, fun y => ⟨_, rfl, y⟩⟩
    have on10 := (was 10).2 (by decide +kernel)
    have on200 := (was 200).2 (by decide +kernel)
    have off130 := mt (was 130).1 (by decide +kernel)
    obtain ⟨x, -, y⟩ := ((f 10).2.2 (by decide +kernel) on10).2 { top := some 50, bottom := none }
      (by decide +kernel) (by decide +kernel)
    exact ⟨t, e, ((c 130).1 (by decide +kernel) off130).1,
      ((c 200).2.1 (by decide +kernel) on200).2.2.trans (by decide +kernel), ((c 10).2.2.1 (by decide +kernel) on10).1,
      (((f 200).2.1 (by decide +kernel) on200).1 (by decide +kernel) (by decide +kernel)).trans (by decide +kernel), x,
      y⟩

/-- Who is granted the memory port: the writer alone, the readout alone, of both the one without the last turn; else nobody. -/
theorem met_PortIsArbitrated (h : Obligations.RowsAreWrittenAndSliced) :
    let riu := fun (p : Port) (writes reads : Bool) (turn : PortUser) => { blk.riu with
      port := p, lastTurn := turn, rows := if writes then [{ number := 40, pixels := [] }] else []
      readout := if reads then some { sender := 3, seq := 9, bank := 1, row := 0, col := 0, count := 1 } else none }
    (riu .free true false .writer).grantPort.port = .write true ∧ (riu .free false true .readout).grantPort.port = .read
      ∧ (riu .free true true .readout).grantPort.port = .write true ∧ (riu .free true true .writer).grantPort.port = .read
      ∧ (riu .free false false .writer).grantPort = riu .free false false .writer
      ∧ (riu .read true true .readout).grantPort = riu .read true true .readout := by
  intro riu
  exact ⟨by rw [(h.1 _).2.1 rfl (by decide) (Or.inl rfl)], by rw [(h.1 _).2.2 rfl (by decide) (Or.inl rfl)],
    by rw [(h.1 _).2.1 rfl (by decide) (Or.inr rfl)], by rw [(h.1 _).2.2 rfl (by decide) (Or.inr rfl)],
    (h.1 _).1 (Or.inr ⟨rfl, rfl⟩), (h.1 _).1 (Or.inl (by decide))⟩

theorem grantPort_capture (r : Riu) : r.grantPort.capture = r.capture := by
  unfold Riu.grantPort
  split <;> try rfl
  split <;> try rfl
  split <;> rfl

/-- The bank `SeeksBank` chooses at an idle station: the first FREE one, else the oldest FILLED one that is not kept. -/
theorem claimed {b b' : Blocks} {c : Capture} (h : b.SeeksBank b' c) (k : BankId) (i : b.bcu.claims = [])
    (f : (b.riu.tags[k].state = .free ∧ (k = 1 → ¬ b.riu.tags[(0 : BankId)].state = .free))
      ∨ (∀ j : BankId, b.riu.tags[j].state ≠ .free) ∧ b.riu.tags[k].state = .filled ∧ b.riu.tags[k].hold = false
          ∧ b.riu.readout.map (·.bank) ≠ some k
          ∧ ∀ j : BankId, j ≠ k → b.riu.tags[j].state = .filled →
              (b.riu.counter + 65536 - b.riu.tags[j].serial.getD b.riu.counter) % 65536
                < (b.riu.counter + 65536 - b.riu.tags[k].serial.getD b.riu.counter) % 65536) :
    b'.bcu.claims.map (·.claimant) = [.riu] ∧ b'.riu.capture.map (·.bank) = some (some k) := by
  obtain ⟨-, -, -, -, -, -, -, -, -, h⟩ := h
  obtain ⟨r, t, -⟩ := h k (f.imp id fun ⟨x, y, z, w, v⟩ =>
    ⟨Or.inr ⟨y, by rintro (a | a); exacts [Bool.noConfusion (z.symm.trans a), w a]⟩, fun j m =>
      ⟨x j, by rintro (a | ⟨a, -⟩); exacts [absurd a (x j), v j m a]⟩⟩)
  refine ⟨by rw [(t (by rw [i]; decide)).1, i]; rfl, ?_⟩
  rw [r, grantPort_capture]
  rfl

/-- Point 1 in view, with recaptures used. -/
def usedUp (used : Nat) : Point :=
  { point 1 .viewing with progress := { (point 1 .viewing).progress with recaptures := used } }

/-- The last row of a final frame too dark, at lamp level `lamp`, the point's recaptures used as said. -/
def darkFinal (lamp used : Nat) : State :=
  imaging 287 .final (fun r => { r with lamp := lamp, rows := [{ number := 287, pixels := List.replicate 256 39 }] }) id
    fun r => { r with points := [usedUp used] }

theorem met_FinalFrameEndsTheCapture (h : Obligations.FinalFrameEndsTheCapture) :
    (∃ t, exec .rowWriteComplete (imaging 287 .final) = .next t ∧ t.blk.ggu = none ∧ t.blk.bcu.own = .idle)
      ∧ (∃ t m, exec .rowWriteComplete (imaging 287 .final id id fun r => { r with last := none }) = .next t
          ∧ t.blk.ggu = some m ∧ m.seq = 1)
      ∧ (∃ t, exec .rowWriteComplete (darkFinal 63 0) = .next t ∧ t.blk.rpu.isSet .lowLight = true)
      ∧ (∃ t, exec .rowWriteComplete (darkFinal 32 1) = .next t ∧ t.blk.rpu.isSet .lowLight = true
          ∧ t.blk.bcu.claims.map (·.claimant) = [.riu] ∧ t.blk.riu.capture.map (·.bank) = some (some 1))
      ∧ ∃ t, exec .rowWriteComplete (darkFinal 32 2) = .next t ∧ t.blk.bcu.own = .idle
          ∧ t.blk.rpu.counters[Counter.pointsFailed.index] = 1 := by
  have dark := fun lamp used => h (darkFinal lamp used) 1 _ 0 (usedUp used) _ [] _ 1
    ⟨Option.some_ne_none _, rfl, rfl, rfl, rfl, rfl, rfl, rfl, rfl, rfl, rfl, rfl, rfl⟩ ⟨rfl, rfl, rfl, rfl⟩ rfl rfl rfl
    rfl rfl rfl
  refine ⟨?_, ?_, ?_, ?_, ?_⟩
  · obtain ⟨t, e, -, -, -, -, -, -, -, -, -, -, -, -, own, a, -⟩ := h (imaging 287 .final) 1 _ 0 (point 1 .viewing) _ []
      _ 1 ⟨Option.some_ne_none _, rfl, rfl, rfl, rfl, rfl, rfl, rfl, rfl, rfl, rfl, rfl, rfl⟩ ⟨rfl, rfl, rfl, rfl⟩ rfl
      rfl rfl rfl rfl rfl
    exact ⟨t, e, by rw [((a (by decide +kernel)).2.1 _ rfl (by decide)).2.1]; rfl, (own (Or.inl (by decide +kernel))).1⟩
  · obtain ⟨t, e, -, -, -, -, -, -, -, -, -, -, -, -, -, a, -⟩ :=
      h (imaging 287 .final id id fun r => { r with last := none }) 1 _ 0 (point 1 .viewing) _ [] _ 1
      ⟨Option.some_ne_none _, rfl, rfl, rfl, rfl, rfl, rfl, rfl, rfl, rfl, rfl, rfl, rfl⟩ ⟨rfl, rfl, rfl, rfl⟩ rfl rfl
      rfl rfl rfl rfl
    obtain ⟨-, ⟨m, b, c, -⟩, -⟩ := (a (by decide +kernel)).2.2 rfl
    exact ⟨t, m, e, b, c⟩
  · obtain ⟨t, e, -, -, -, -, -, -, -, -, -, -, -, -, -, -, a, -⟩ := dark 63 0
    exact ⟨t, e, (a (by decide +kernel) rfl ⟨_, rfl, by decide⟩).2.2.2.2.1⟩
  · obtain ⟨t, e, -, -, -, -, -, -, -, -, -, -, -, -, -, -, -, a⟩ := dark 32 1
    obtain ⟨l, -, a⟩ := a (by decide +kernel) (by decide +kernel) ⟨_, rfl, by decide⟩
    obtain ⟨-, c, -, -, -, -, -, -, -, sb⟩ := a (by decide) rfl
    exact ⟨t, e, l, claimed sb 1 rfl (Or.inl ⟨rfl, fun _ x => BankState.noConfusion x⟩)⟩
  · obtain ⟨t, e, -, -, -, -, -, -, -, -, -, -, -, -, -, -, -, a⟩ := dark 32 2
    obtain ⟨-, -, own, -, -, -, -, -, c⟩ := (a (by decide +kernel) (by decide +kernel) ⟨_, rfl, by decide⟩).2.1 (by decide)
    exact ⟨t, e, own, by
      rw [c]
      show (Rpu.reset.counted 63 .pointsFailed).counters[Counter.pointsFailed.index] = 1
      decide +kernel⟩

theorem met_FailedCapturesEnd (h : Obligations.FailedCapturesEnd) :
    (∃ t, exec .cameraTimerExpiry (imaging 40 .final) = .next t ∧ t.blk.rpu.isSet .camSilent = true)
      ∧ (∃ t, exec (.rowArrival (row256 7)) (imaging 286 .final fun r => { r with
            rows := List.replicate 4 { number := 40, pixels := List.replicate 256 7 } }) = .next t
          ∧ t.blk.bcu.claims.map (·.claimant) = [.riu] ∧ t.blk.riu.capture.map (·.bank) = some (some 0))
      ∧ ∃ t, exec .frameStart (imaging 286 .final id id fun r => { r with
            points := [{ point 1 .viewing with progress := { (point 1 .viewing).progress with rowRecaptures := 3 } }] }) = .next t
          ∧ t.blk.bcu.own = .idle := by
  refine ⟨?_, ?_, ?_⟩
  · obtain ⟨t, e, -, -, -, -, -, -, a, -⟩ := h (imaging 40 .final) .cameraTimerExpiry 1 _ 0 (point 1 .viewing)
      ⟨Option.some_ne_none _, rfl, rfl, rfl, rfl, rfl, rfl, rfl, rfl, rfl, rfl, rfl, rfl⟩ ⟨rfl, rfl, rfl, rfl⟩
      ⟨_, rfl, by decide⟩ (Or.inl ⟨rfl, _, rfl, by decide⟩)
    exact ⟨t, e, (a ⟨rfl, _, rfl, by decide⟩).2.2.2.2.1⟩
  · have d := fun (c : Capture) (x : c.cond = .framing ∧ c.arriving = true ∧ c.windowTop = 32) => show
      ∃ (n : Nat) (pixels : Vector Byte 256), Instr.rowArrival (row256 7) = .rowArrival pixels
        ∧ (some 287 : Option Nat) = some n ∧ n < 320 ∧ c.cond = .framing ∧ c.arriving = true ∧ c.windowTop ≤ n
        ∧ n < c.windowTop + 256 ∧ 4 ≤ 4 from
      ⟨287, _, rfl, rfl, by decide, x.1, x.2.1, by rw [x.2.2]; decide, by rw [x.2.2]; decide, by decide⟩
    obtain ⟨t, e, -, -, -, -, -, -, -, a⟩ := h (imaging 286 .final fun r => { r with
      rows := List.replicate 4 { number := 40, pixels := List.replicate 256 7 } }) (.rowArrival (row256 7)) 1 _ 0 (point 1 .viewing)
      ⟨Option.some_ne_none _, rfl, rfl, rfl, rfl, rfl, rfl, rfl, rfl, rfl, rfl, rfl, rfl⟩ ⟨rfl, rfl, rfl, rfl⟩
      ⟨_, rfl, by decide⟩ (Or.inr (Or.inl (d _ ⟨rfl, rfl, rfl⟩)))
    obtain ⟨-, c, -, -, -, -, -, -, -, sb⟩ := (a (Or.inl (d _ ⟨rfl, rfl, rfl⟩))).2.2.2 (by decide) rfl
    exact ⟨t, e, claimed sb 0 rfl (Or.inl ⟨rfl, fun x => absurd x (by decide)⟩)⟩
  · obtain ⟨t, e, -, -, -, -, -, -, -, a⟩ := h (imaging 286 .final id id fun r => { r with
      points := [{ point 1 .viewing with progress := { (point 1 .viewing).progress with rowRecaptures := 3 } }] }) .frameStart 1
      _ 0 _ ⟨Option.some_ne_none _, rfl, rfl, rfl, rfl, rfl, rfl, rfl, rfl, rfl, rfl, rfl, rfl⟩ ⟨rfl, rfl, rfl, rfl⟩
      ⟨_, rfl, by decide⟩ (Or.inr (Or.inr ⟨rfl, rfl, rfl, by decide⟩))
    exact ⟨t, e, ((a (Or.inr ⟨rfl, rfl, rfl, by decide⟩)).2.2.1 (by decide)).2.2.1⟩

/-- The last row of a search frame: height `index`, the scores before, the lowest energy allowed; the abandon mark and a drain. -/
def searched (index : Nat) (scores : List Nat) (minEnergy used : Nat) (abandon draining : Bool) : State :=
  let s := imaging 287 .search (fun r => { r with capture := r.capture.map fun c => { c with abandon := abandon } })
    (fun g => { g with search := g.search.map fun d => { d with index := index, scores := scores } })
    (fun r => { r with
      draining := draining, run := if draining then .stopping else .running, points := [usedUp used]
      last := if draining then none else r.last })
  { s with site := { s.site with cfg := { s.site.cfg with image := { s.site.cfg.image with minEnergy := minEnergy } } } }

theorem met_FocusSearchRunsItsHeights (h : Obligations.FocusSearchRunsItsHeights) :
    let d : Search := { kind := .short, centre := 20, heights := [0, 20, 70], index := 2, scores := [5, 9], decision := .undecided }
    (d.record 9 9).decision = .best 1 ∧ (d.record 9 10).decision = .focusPoor
      ∧ ({ d with index := 1, scores := [5] }.record 9 9).index = 2
      ∧ (∃ t, exec .rowWriteComplete (searched 0 [] 0 0 false false) = .next t ∧ t.blk.egu.kind = none
          ∧ t.blk.adu.f.cmd = some (.drive 9000))
      ∧ (∃ t, exec .rowWriteComplete (searched 2 [5, 0] 0 0 false false) = .next t
          ∧ t.blk.adu.step = some { target := 8950, noop := true } ∧ t.blk.riu.capture.map (·.cond) = some .stepping)
      ∧ (∃ t, exec .rowWriteComplete (searched 2 [5, 0] 10 1 false false) = .next t
          ∧ t.blk.bcu.claims.map (·.claimant) = [.riu] ∧ t.blk.riu.capture.map (·.bank) = some (some 0))
      ∧ (∃ t, exec .rowWriteComplete (searched 2 [5, 0] 10 2 false false) = .next t
          ∧ t.blk.rpu.counters[Counter.pointsFailed.index] = 1)
      ∧ (∃ t, exec .rowWriteComplete (searched 0 [] 0 0 true true) = .next t ∧ t.blk.riu.capture = none)
      ∧ ∃ t, exec .rowWriteComplete (searched 2 [5, 0] 10 1 false true) = .next t ∧ t.blk.bcu.own = .idle
          ∧ t.blk.rsq.run = .halted := by
  intro d
  have go := fun i sc m u a dr => h.2.2 (searched i sc m u a dr) 1 _ 0 (usedUp u) _ [] _ rfl rfl rfl rfl rfl rfl rfl rfl rfl rfl
    rfl
  have alone : ∀ i sc m u, (searched i sc m u false false).blk.ViewsAlone 1
      { seq := 1, objective := 2, windowTop := 32, edge := .outer, search := .short, bank := some 0, cond := .framing
        abandon := false, stamp := 90000, arriving := true } 0 (usedUp u) :=
    fun i sc m u => ⟨Option.some_ne_none _, rfl, rfl, rfl, rfl, rfl, rfl, rfl, rfl, rfl, rfl, rfl, rfl⟩
  refine ⟨?_, ?_, ?_, ?_, ?_, ?_, ?_, ?_, ?_⟩
  · rw [((h.2.1 d 9 9).2 (by decide)).2 1 (by decide) (by decide) (by decide) (by decide)]
  · rw [((h.2.1 d 9 10).2 (by decide)).1 (by decide)]
  · rw [(h.2.1 { d with index := 1, scores := [5] } 9 9).1 (by decide)]
  · obtain ⟨t, e, -, -, -, -, f, a, -⟩ := go 0 [] 0 0 false false
    obtain ⟨g, -, k, -⟩ := f (by decide)
    obtain ⟨-, -, -, -, -, -, -, -, -, a⟩ := a rfl (by decide +kernel) rfl
    exact ⟨t, e, k, by rw [a (by decide +kernel)]; decide +kernel⟩
  · obtain ⟨t, e, -, -, -, -, -, a, -⟩ := go 2 [5, 0] 0 0 false false
    obtain ⟨-, -, -, -, -, c, -, -, a, -⟩ := a rfl (by decide +kernel) rfl
    exact ⟨t, e, by rw [a (by decide +kernel)]; decide +kernel, by rw [c]; rfl⟩
  · obtain ⟨t, e, -, -, -, -, -, -, a, -⟩ := go 2 [5, 0] 10 1 false false
    obtain ⟨-, c, -, -, -, -, -, -, -, sb⟩ := ((a (by decide +kernel) (alone _ _ _ _) ⟨rfl, rfl, rfl, rfl⟩
      ⟨_, rfl, by decide⟩).2.2.2 (by decide) rfl)
    exact ⟨t, e, claimed sb 0 rfl (Or.inl ⟨rfl, fun x => absurd x (by decide)⟩)⟩
  · obtain ⟨t, e, -, -, -, -, -, -, a, -⟩ := go 2 [5, 0] 10 2 false false
    obtain ⟨-, -, -, -, -, -, -, -, c⟩ := (a (by decide +kernel) (alone _ _ _ _) ⟨rfl, rfl, rfl, rfl⟩
      ⟨_, rfl, by decide⟩).2.2.1 (by decide)
    exact ⟨t, e, by
      rw [c]
      show (Rpu.reset.counted 63 .pointsFailed).counters[Counter.pointsFailed.index] = 1
      decide +kernel⟩
  · obtain ⟨t, e, -, -, -, -, -, -, -, a⟩ := go 0 [] 0 0 true true
    exact ⟨t, e, ((a rfl rfl rfl ⟨rfl, rfl, rfl⟩ rfl).1 rfl (by decide +kernel)).2.2.1⟩
  · obtain ⟨t, e, -, -, -, -, -, -, -, a⟩ := go 2 [5, 0] 10 1 false true
    obtain ⟨own, -, -, -, -, -, -, -, -, -, r, -⟩ := (a rfl rfl rfl ⟨rfl, rfl, rfl⟩ rfl).2 (by decide +kernel) (by decide)
    exact ⟨t, e, own, by rw [((r rfl).1 (by decide)).1]; decide +kernel⟩

/-- An idle station's image unit, changed. -/
def withRiu (f : Riu → Riu) : State := on { blk with riu := f blk.riu }

theorem met_ReadoutAndImageTimersEnd (h : Obligations.ReadoutAndImageTimersEnd) :
    let hold := fun expiry : Stamp => withRiu fun r => { r with
      tags := r.tags.set 1 { BankTag.free with hold := true, expiry := expiry } }
    let warm := withRiu fun r => { r with warmup := some 80000 }
    let lamp := on { rowState 40 .search with
      bcu := blk.bcu
      riu := { atCond .waitLamp false (rowState 40 .search).riu with warmup := some 80000, tags := blk.riu.tags, rows := [] } }
    Runs .readoutComplete (withRiu fun r => { r with
        port := .read, readout := some { sender := 3, seq := 9, bank := 1, row := 255, col := 255, count := 32 } })
      ∧ exec .readoutComplete ready = .next ready
      ∧ (∃ t, exec (.holdExpiry 1) (hold 100000) = .next t ∧ t.blk.rpu.isSet .holdExpired = true)
      ∧ exec (.holdExpiry 0) ready = .next ready ∧ exec (.holdExpiry 1) (hold 100001) = .next (hold 100001)
      ∧ exec (.holdExpiry 1) (hold 200000) = .next (hold 200000) ∧ Runs .warmupExpiry warm
      ∧ ∃ t, exec .warmupExpiry lamp = .next t ∧ t.blk.bcu.claims.map (·.claimant) = [.riu]
          ∧ t.blk.riu.capture.map (·.bank) = some (some 0) := by
  intro hold warm lamp
  have idle : ∀ f, (withRiu f).blk.Waits := fun f => Or.inr ⟨rfl, rfl⟩
  have ok : ∀ f, (withRiu f).blk.LinesOk := fun f => lines _ ⟨rfl, rfl, rfl, rfl⟩
  refine ⟨?_, (h ready (ok id)).2.1 (by intro o x; exact nomatch x), ?_, ((h ready (ok id)).2.2.1 0).2.1 (by decide),
    ((h (hold 100001) (ok _)).2.2.1 1).2.2 (by decide) (by decide),
    ((h (hold 200000) (ok _)).2.2.1 1).2.2 (by decide) (by decide), ?_, ?_⟩
  · obtain ⟨t, e, -⟩ := (h (withRiu fun r => { r with
      port := .read, readout := some { sender := 3, seq := 9, bank := 1, row := 255, col := 255, count := 32 } }) (ok _)).1 _ rfl
      rfl (by decide) (by decide) (idle _)
    exact ⟨t, e⟩
  · obtain ⟨t, e, -, p⟩ := ((h (hold 100000) (ok _)).2.2.1 1).1 rfl rfl (idle _)
    exact ⟨t, e, by rw [(followed (p.1 (by decide))).2]; decide +kernel⟩
  · obtain ⟨t, e, -⟩ := ((h warm (ok _)).2.2.2 80000 rfl (by decide)).1 (by decide) (idle _)
    exact ⟨t, e⟩
  · obtain ⟨t, e, -, sb⟩ := ((h lamp (lines _ ⟨rfl, rfl, rfl, rfl⟩)).2.2.2 80000 rfl (by decide)).2 _ 1 rfl rfl rfl
    exact ⟨t, e, claimed sb 0 rfl (Or.inl ⟨rfl, fun x => absurd x (by decide)⟩)⟩

/-- The capture in WAITBANK with bank 0 as `first` and bank 1 FILLED under serial 7, the readout given. -/
def banksFilled (first second : BankTag) (readout : Option Readout) : State :=
  on { waitsForBank with riu := { waitsForBank.riu with
    tags := (waitsForBank.riu.tags.set 0 first).set 1 second, readout := readout
    port := if readout.isSome then .read else .free } }

/-- A hold that runs out, or a readout that completes, lets the capture in WAITBANK take the older bank left. -/
theorem met_WaitbankChoosesAgain (h : Obligations.ReadoutAndImageTimersEnd) :
    let filled := fun n : Nat => { BankTag.free with state := .filled, owner := some 8, serial := some n }
    let busy := { BankTag.free with state := .measuring, owner := some 9, serial := some 7 }
    let held := { filled 5 with hold := true, expiry := 100000 }
    let chooses := fun (c : Instr) (s : State) (k : BankId) =>
      ∃ t, exec c s = .next t ∧ t.blk.bcu.claims.map (·.claimant) = [.riu] ∧ t.blk.riu.capture.map (·.bank) = some (some k)
    chooses (.holdExpiry 0) (banksFilled held (filled 7) none) 0 ∧ chooses (.holdExpiry 0) (banksFilled held busy none) 0
      ∧ chooses .readoutComplete
          (banksFilled (filled 7) (filled 5) (some { sender := 3, seq := 8, bank := 1, row := 0, col := 0, count := 1 })) 1 := by
  intro filled busy held chooses
  have go := fun a b r => h (banksFilled a b r) (lines _ ⟨rfl, rfl, rfl, rfl⟩)
  refine ⟨?_, ?_, ?_⟩
  · obtain ⟨t, e, -, p⟩ := ((go held (filled 7) none).2.2.1 0).1 rfl rfl (Or.inl (Or.inr ⟨1, rfl, rfl⟩))
    exact ⟨t, e, claimed (p.2 _ rfl rfl) 0 rfl (Or.inr (by decide +kernel))⟩
  · obtain ⟨t, e, -, p⟩ := ((go held busy none).2.2.1 0).1 rfl rfl (Or.inl (Or.inr ⟨1, rfl, rfl⟩))
    exact ⟨t, e, claimed (p.2 _ rfl rfl) 0 rfl (Or.inr (by decide +kernel))⟩
  · obtain ⟨t, e, -, p⟩ := (go (filled 7) (filled 5) (some _)).1 { sender := 3, seq := 8, bank := 1, row := 0, col := 0, count := 1 }
      rfl rfl (by decide) (by decide) (Or.inl (Or.inr ⟨1, rfl, rfl⟩))
    exact ⟨t, e, claimed (p.2 _ rfl rfl) 1 rfl (Or.inr (by decide +kernel))⟩

/-! ### Obligations applied: the gauge -/

/-- Point 31 in LAST as `p`, in measurement from bank 1 with the tables `res`, while point 1 is captured into bank 0. -/
def measuring (res : FrameResults) (p : Point := point 31 .measuring) (draining : Bool := false) : State :=
  imaging 40 .final (fun r => { r with tags := r.tags.set 1 { BankTag.free with state := .measuring } })
    (fun g => { g with results := g.results.set 1 res })
    (fun r => { r with
      points := [point 1 .viewing, p], last := some { seq := 31, values := measure31.values }, draining := draining
      group := some { order := [31, 1], indenter := 0, objective := 2 } })
  |> fun s => on { s.blk with ggu := some measure31 }

/-- The result of point 31 without a neighbour. -/
def result31 : ResultPart :=
  { dH := 27438, dV := 27469, hardness := 2511, verdict := .pass, asym := false, split := false, spacing := false
    offX := -3, offY := 0, stamp := 77, level := 32, height := 8400 }

theorem measured31 : measure measure31 (measuring tables31).blk.egu.results[measure31.bank] (measuring tables31).blk.rsq.points
    = .done result31 := by decide +kernel

/-- Tables whose rows from `a` to `b` are present, all alike, and whose columns are all alike. -/
def solid (a b : Fin 256) (left right height : Nat) : FrameResults :=
  { rows := Vector.ofFn fun i => if a ≤ i ∧ i ≤ b then some { runs := 1, left := left, right := right } else none
    cols := Vector.replicate 256 (some { top := some 0, bottom := some height })
    peak := 0 }

theorem solid_row (a b i : Fin 256) (left right height : Nat) : (solid a b left right height).rows[i]
    = if a ≤ i ∧ i ≤ b then some { runs := 1, left := left, right := right } else none := by
  simp [solid]

/-- Their impression block is that one (R147). -/
theorem solid_block (a b : Fin 256) (left right height : Nat) (h : a ≤ b) :
    (solid a b left right height).IsImpression a b := by
  have p : ∀ i, ((solid a b left right height).rows[i].isSome = true ↔ a ≤ i ∧ i ≤ b) := by
    intro i
    rw [solid_row]
    split <;> simp_all
  refine ⟨⟨h, (p a).2 ⟨Fin.le_refl a, h⟩, (p b).2 ⟨h, Fin.le_refl b⟩, ?_, ?_, ?_⟩, ?_⟩
  · intro i x y
    exact ⟨⟨i, by omega⟩, Nat.le_refl i, Nat.le_add_right i 2, (p _).2 ⟨x, by show i ≤ b.val; omega⟩⟩
  · intro i x y
    have := ((p i).1 y).1
    omega
  · intro i x y
    have := ((p i).1 y).2
    omega
  · rintro c d ⟨-, x, y, -, u, v⟩
    have e : c = a := by
      by_contra n
      have := ((p c).1 x).1
      have := u a (by omega) ((p a).2 ⟨Fin.le_refl a, h⟩)
      have q := u ⟨c.val - 1, by omega⟩ (by show c.val - 1 < c.val; omega)
        ((p _).2 ⟨by show a.val ≤ c.val - 1; omega, by show c.val - 1 ≤ b.val; have := ((p c).1 x).2; omega⟩)
      have q : c.val - 1 + 4 ≤ c.val := q
      omega
    have f : d = b := by
      by_contra n
      have := ((p d).1 y).2
      have q := v ⟨d.val + 1, by omega⟩ (by show d.val < d.val + 1; omega)
        ((p _).2 ⟨by show a.val ≤ d.val + 1; have := ((p d).1 y).1; omega, by show d.val + 1 ≤ b.val; omega⟩)
      have q : d.val + 4 ≤ d.val + 1 := q
      omega
    exact Or.inr ⟨by rw [e, f], by rw [e]⟩

/-- And its extent that of a row and a column (R147, R151). -/
theorem solid_extent (a b : Fin 256) (left right height : Nat) (h : a ≤ b) (r : left ≤ right) (s : right ≤ 4080) :
    (solid a b left right height).Extent a b left right (right - left) height := by
  have row : ∀ (i : Fin 256) (e : RowEdge), (solid a b left right height).rows[i] = some e → e = { runs := 1, left := left, right := right } := by
    intro i e x
    rw [solid_row] at x
    split at x
    · exact (Option.some.inj x).symm
    · exact nomatch x
  have col : ∀ j : Fin 256, (solid a b left right height).cols[j] = some { top := some 0, bottom := some height } := by
    intro j
    simp [solid]
  have one : ∃ i : Fin 256, a ≤ i ∧ i ≤ b ∧ (solid a b left right height).rows[i]
      = some { runs := 1, left := left, right := right } :=
    ⟨a, Fin.le_refl a, h, by rw [solid_row, if_pos ⟨Fin.le_refl a, h⟩]⟩
  refine ⟨⟨_, one, rfl⟩, ⟨_, one, rfl⟩, ⟨_, one, rfl⟩, ?_, ?_, Or.inr ⟨_, ⟨⟨left / 16, by omega⟩, Nat.le_refl _, ?_, col _⟩, rfl⟩⟩
  · rintro e ⟨i, -, -, x⟩
    rw [row i e x]
    exact ⟨Nat.le_refl _, Nat.le_refl _, Nat.le_refl _⟩
  · rintro e ⟨j, -, -, x⟩
    rw [← Option.some.inj ((col j).symm.trans x)]
    exact Nat.le_refl _
  · show left / 16 ≤ right / 16
    omega

/-- Point 32 of spec 08, rows 0 to 97, in the tables of point 31. -/
def clippedTop : FrameResults := solid 0 97 1300 2760 1000

theorem measuredClipped : ∀ p : Point, measure measure31 (measuring clippedTop p).blk.egu.results[measure31.bank]
    (measuring clippedTop p).blk.rsq.points = .clipped (some { top := some 0, dx := none, dy := some (-117) }) := by
  have : ∀ points, measure measure31 clippedTop points = .clipped (some { top := some 0, dx := none, dy := some (-117) }) := by
    have k : impressionBlock clippedTop.rows.toList = some
        { first := 0, last := 97, count := 98, left := 1300, right := 2760, wide := 1460, split := 0 } := by decide +kernel
    intro points
    simp only [Machine.measure, k]
    rfl
  exact fun p => this _

/-- What a following event in the view phase leaves of the counters, the capture in NOW not in WAITBANK. -/
theorem proceeded {b b' : Blocks} (h : b.Proceeds b') (n : b.riu.capture.map (·.cond) ≠ some .waitBank) : b'.rpu = b.rpu :=
  (followed (h.1 n)).2

theorem met_MeasurementCompletes (h : Obligations.MeasurementCompletes) :
    let third := { point 31 .measuring with progress := { (point 31 .measuring).progress with recaptures := 2 } }
    let counts := fun (s : State) (c : Counter) =>
      ∃ t, exec .gguCompletion s = .next t ∧ t.blk.rpu.counters[c.index] = 1
    counts (measuring tables31) .pointsDone ∧ counts (measuring FrameResults.cleared) .pointsFailed
      ∧ counts (measuring clippedTop third) .pointsFailed
      ∧ (∃ t, exec .gguCompletion (measuring clippedTop (point 31 .measuring) true) = .next t ∧ t.blk.rpu = Rpu.reset)
      ∧ counts (measuring clippedTop) .recaptures := by
  intro third counts
  have go := fun res p d => (h (measuring res p d) measure31 { seq := 31, values := measure31.values } 1 rfl rfl rfl rfl
    (lines _ ⟨rfl, rfl, rfl, rfl⟩)).2 rfl (by decide) rfl
  refine ⟨?_, ?_, ?_, ?_, ?_⟩
  · obtain ⟨t, e, -, p⟩ := (go tables31 _ _).1 result31 measured31
    exact ⟨t, e, by rw [proceeded p (by decide)]; decide +kernel⟩
  · obtain ⟨t, e, -, p⟩ := (go FrameResults.cleared (point 31 .measuring) false).2.1 .noImpression
      (Or.inl ⟨by decide +kernel, rfl⟩)
    exact ⟨t, e, by rw [proceeded p (by decide)]; decide +kernel⟩
  · obtain ⟨t, e, -, p, -⟩ := (go clippedTop third false).2.2 _ third (measuredClipped _) rfl
    exact ⟨t, e, by rw [proceeded (p (Or.inl (by decide))) (by decide)]; decide +kernel⟩
  · obtain ⟨t, e, -, -, p, -⟩ := (go clippedTop (point 31 .measuring) true).2.2 _ (point 31 .measuring) (measuredClipped _) rfl
    exact ⟨t, e, proceeded (p (by decide) (by decide) rfl (by decide)) (by decide)⟩
  · obtain ⟨t, e, -, -, -, p⟩ := (go clippedTop (point 31 .measuring) false).2.2 _ (point 31 .measuring) (measuredClipped _) rfl
    exact ⟨t, e, by rw [proceeded (p (by decide) (by decide) rfl) (by decide)]; decide +kernel⟩

/-- Point 31 the group's last, with the run state and the Order List given. -/
def measuringLast (res : FrameResults) (run : RunState) (order : List Seq) : State :=
  let b := (measuring res).blk
  on { b with
    bcu := blk.bcu, riu := { b.riu with capture := none, port := .free, rows := [] }
    rsq := { b.rsq with
      now := none, run := run, orderList := order
      points := point 31 .measuring :: order.map fun q => point q .waiting } }

/-- The group's last point measured finishes the group, done or failed. -/
theorem met_LastMeasurementFinishesTheGroup (h : Obligations.MeasurementCompletes) :
    (∃ t, exec .gguCompletion (measuringLast tables31 .running []) = .next t ∧ t.blk.rsq.run = .finished
        ∧ t.blk.rpu.isSet .runFinished = true)
      ∧ (∃ t, exec .gguCompletion (measuringLast tables31 .stopping [2]) = .next t ∧ t.blk.rsq.run = .halted)
      ∧ ∃ t, exec .gguCompletion (measuringLast FrameResults.cleared .running [2]) = .next t ∧ t.blk.rsq.groupList = [2]
          ∧ t.blk.rpu.isSet .groupDone = true := by
  have go := fun res run order => (h (measuringLast res run order) measure31 { seq := 31, values := measure31.values } 1 rfl rfl
    rfl rfl (lines _ ⟨rfl, rfl, rfl, rfl⟩)).1 rfl rfl rfl rfl rfl (by exact Option.some_ne_none _) rfl rfl
  refine ⟨?_, ?_, ?_⟩
  · obtain ⟨t, e, -, f, -⟩ := (go tables31 .running []).1 result31 (by decide +kernel)
    obtain ⟨r, -, -, n⟩ := f.2.2.1 rfl rfl
    exact ⟨t, e, by rw [r], n⟩
  · obtain ⟨t, e, -, f, -⟩ := (go tables31 .stopping [2]).1 result31 (by decide +kernel)
    exact ⟨t, e, by rw [(f.2.1 rfl).1]; decide +kernel⟩
  · obtain ⟨t, e, -, f, -⟩ := (go FrameResults.cleared .running [2]).2 .noImpression (Or.inl ⟨by decide +kernel, rfl⟩)
    have b := ((f.2.2.2 2 [] (point 2 .waiting) rfl rfl rfl (Or.inl rfl)).1 (by intro x; exact Turret.noConfusion x)).1
    exact ⟨t, e, by rw [b]; decide +kernel, f.1⟩

theorem met_ResultFollowsTheBlock (h : Obligations.ResultFollowsTheBlock) :
    verdictOf (some 200) (some 300) 200 = .pass ∧ verdictOf (some 200) (some 300) 300 = .pass
      ∧ verdictOf (some 200) (some 300) 199 = .low ∧ verdictOf (some 200) (some 300) 301 = .high
      ∧ verdictOf none none 7 = .noLimit ∧ measure measure31 FrameResults.cleared [] = .noImpression
      ∧ (∃ a b, tables31.IsImpression a b)
      ∧ measure measure31 (solid 0 255 1300 2760 1000) [] = .clipped none
      ∧ (∃ rc, measure measure31 (solid 0 97 1300 2760 1000) [] = .clipped (some rc) ∧ rc.dx = none)
      ∧ measure measure31 (solid 5 97 1300 1619 1000) [] = .tooSmall
      ∧ ∃ r, measure measure31 (solid 5 97 1300 1620 320) [] = .done r ∧ r.dH = 5000 := by
  obtain ⟨v, w, m⟩ := h
  have go := fun (a b : Fin 256) left right height x y z =>
    (m measure31 (solid a b left right height) []).2 a b left right (right - left) height
      (solid_block a b left right height x) (solid_extent a b left right height x y z)
  refine ⟨(v (some 200) (some 300) 200).2.2.2 (Or.inl (by decide)) (by simp) (by simp),
    (v (some 200) (some 300) 300).2.2.2 (Or.inl (by decide)) (by simp) (by simp),
    (v (some 200) (some 300) 199).2.1 200 rfl (by decide), (v (some 200) (some 300) 301).2.2.1 300 rfl (by decide) (by simp),
    (v none none 7).1 rfl rfl, (m measure31 FrameResults.cleared []).1 (by decide +kernel), ?_,
    (go 0 255 1300 2760 1000 (by decide) (by decide) (by decide)).1 (Or.inl ⟨rfl, rfl⟩), ?_,
    (go 5 97 1300 1619 1000 (by decide) (by decide) (by decide)).2.2.1 (by decide) (by decide), ?_⟩
  · obtain ⟨a, b, -, -, -, -, i, -⟩ := w tables31 ⟨100, by decide +kernel⟩
    exact ⟨a, b, i⟩
  · obtain ⟨rc, a, -, b, -⟩ := (go 0 97 1300 2760 1000 (by decide) (by decide) (by decide)).2.1 (by decide) (by decide)
    exact ⟨rc, a, b⟩
  · obtain ⟨r, a, b, -⟩ := (go 5 97 1300 1620 320 (by decide) (by decide) (by decide)).2.2.2 (by decide) (by decide) (by decide)
    exact ⟨r, a, b⟩

end Sys2Proof.Tests
end

/-! PROOFS. The requests that change the plan: ADDPT, DROPPT, RETEST and CLEARPLAN (R18, R19, R24, R25). -/

namespace Sys2Proof.Machine

/-! ### A request that reaches its owner (R164, R165, R168) -/

section
variable {s : State} {r : Request} {rest : List Request} {c : ReqCode}

/-- The decoder finds nothing to refuse: the length is right, and READY and PARKED let every code through. -/
theorem State.mayServe.screen_eq_none (h : s.mayServe r rest c) : screen s.blk.phase c r = none := by
  obtain ⟨-, -, hlen, hres, hunc⟩ := h
  cases hp : s.blk.phase <;> simp_all [screen]

theorem State.mayServe.headRequest_eq (h : s.mayServe r rest c) : headRequest (some c) s = some r := by
  obtain ⟨⟨hrecv, hplace⟩, hcode, -⟩ := h
  simp [headRequest, hrecv, hcode, Lki.hasPlace, hplace]

/-- A request that may be served is taken from the Receive Buffer and goes to its owner. -/
theorem State.mayServe.takeRequest_eq (h : s.mayServe r rest c) (serve : Request → State → State) :
    takeRequest c serve s = serve r s.dropRequest := by
  simp [takeRequest, h.headRequest_eq, h.screen_eq_none]

theorem State.mayServe.tail_recv (h : s.mayServe r rest c) : s.blk.lki.recv.tail = rest := by
  obtain ⟨⟨hrecv, -⟩, -⟩ := h
  rw [hrecv, List.tail_cons]

/-- Dropped and answered, the request leaves the link as the statements write it. -/
theorem State.mayServe.reply_eq (h : s.mayServe r rest c) (a : AnswerCode) (d : List Byte) :
    s.dropRequest.reply r a d = s.answers r rest a d := by
  rw [← h.tail_recv]
  rfl

/-- An owner that only answers. -/
theorem State.mayServe.takeRequest_answers (h : s.mayServe r rest c) {serve : Request → State → State} {a : AnswerCode}
    {d : List Byte} (hs : serve r s.dropRequest = s.dropRequest.reply r a d) :
    takeRequest c serve s = s.answers r rest a d := by
  rw [h.takeRequest_eq, hs, h.reply_eq]

/-- An owner that changes the sequencer and answers DONE. -/
theorem State.mayServe.takeRequest_answersWith (h : s.mayServe r rest c) {serve : Request → State → State} {u : Rsq}
    (hs : serve r s.dropRequest = (s.dropRequest.withBlk (s.dropRequest.blk.withRsq u)).reply r .done []) :
    takeRequest c serve s = s.answersWith r rest u := by
  rw [h.takeRequest_eq, hs, ← h.tail_recv]
  rfl

end

@[simp] theorem State.dropRequest_rsq (s : State) : s.dropRequest.blk.rsq = s.blk.rsq := rfl

/-! ### Records of the table, states and places (R2, R6, R12, R19) -/

theorem Rsq.find_eq_none_iff (u : Rsq) (q : Seq) : u.find q = none ↔ ∀ p ∈ u.points, p.plan.seq ≠ q := by
  simp [Rsq.find]

theorem Rsq.find_isSome_iff (u : Rsq) (q : Seq) : (u.find q).isSome = true ↔ ∃ p ∈ u.points, p.plan.seq = q := by
  simp [Rsq.find]

theorem PointState.open_iff (st : PointState) : st.open_ = true ↔ st = .waiting ∨ st = .indented := by
  cases st <;> simp [PointState.open_]

theorem PointState.terminal_iff (st : PointState) :
    st.terminal = true ↔ st = .done ∨ st = .failed ∨ st = .cancelled := by
  cases st <;> simp [PointState.terminal]

theorem RunState.active_iff (run : RunState) : run.active = true ↔ run = .running ∨ run = .stopping := by
  cases run <;> simp [RunState.active]

theorem Rsq.inSlot_iff (u : Rsq) (q : Seq) :
    u.inSlot q = true ↔ u.next.map (·.seq) = some q ∨ u.now.map (·.seq) = some q ∨ u.last.map (·.seq) = some q := by
  simp [Rsq.inSlot, or_assoc]

theorem Rsq.hasWork_eq_false_iff (u : Rsq) :
    u.hasWork = false ↔ ∀ p ∈ u.points, p.progress.state ≠ .waiting ∧ p.progress.state ≠ .indented := by
  simp only [Rsq.hasWork, List.any_eq_false, PointState.open_iff, not_or]

/-! ### The ranges a plan part must keep (R3, R18, R24) -/

theorem within_iff (lo hi v : Nat) : within lo hi v = true ↔ lo ≤ v ∧ v ≤ hi := by
  simp [within]

theorem withinInt_iff (lo hi v : Int) : withinInt lo hi v = true ↔ lo ≤ v ∧ v ≤ hi := by
  simp [withinInt]

theorem turretPos_eq_some_iff (n : Nat) (p : TurretPos) : turretPos n = some p ↔ n = p.val := by
  unfold turretPos
  split
  · rw [Option.some_inj, Fin.ext_iff]
  next h =>
    have := p.isLt
    simp only [reduceCtorEq, false_iff]
    omega

theorem toolsServe_iff (cfg : Settings) (ind obj : TurretPos) :
    toolsServe cfg ind obj = true ↔
      (cfg.tools[ind].kind = .vickers ∨ cfg.tools[ind].kind = .knoop) ∧ cfg.tools[obj].kind = .objective := by
  simp [toolsServe]

/-- The position under both tools lies inside the stage limits. -/
theorem toolsInside_iff (cfg : Settings) (ind obj : TurretPos) (x y : Int) :
    toolsInside cfg ind obj x y = true ↔ ∀ p : TurretPos, p = ind ∨ p = obj →
      (cfg.stage.xMin ≤ x + cfg.tools[p].offX ∧ x + cfg.tools[p].offX ≤ cfg.stage.xMax)
        ∧ (cfg.stage.yMin ≤ y + cfg.tools[p].offY ∧ y + cfg.tools[p].offY ≤ cfg.stage.yMax) := by
  simp only [toolsInside, insideX, insideY, withinInt_iff, Bool.and_eq_true, forall_eq_or_imp, forall_eq]
  tauto

theorem AddptArgs.limitsAgree_iff (a : AddptArgs) :
    limitsAgree a.limits = true ↔ (a.presence.testBit 0 = true → a.presence.testBit 1 = true → a.low ≤ a.high) := by
  by_cases hlow : a.presence.testBit 0 = true
  · by_cases hhigh : a.presence.testBit 1 = true
    · rw [AddptArgs.limits, if_pos hlow, if_pos hhigh]
      simp [limitsAgree, hlow, hhigh]
    · rw [AddptArgs.limits, if_pos hlow, if_neg hhigh]
      simp [limitsAgree, hhigh]
  · rw [AddptArgs.limits, if_neg hlow]
    cases (if a.presence.testBit 1 = true then some a.high else none) <;> simp [limitsAgree, hlow]

/-! ### ADDPT (R18) -/

/-- The fourth check of R18 passes exactly for acceptable arguments, and the plan part is then the record's. -/
theorem AddptArgs.plan_eq_some_iff (a : AddptArgs) (cfg : Settings) (p : Plan) :
    a.plan cfg = some p ↔ ∃ ind obj, a.Acceptable cfg ind obj ∧ (a.record ind obj).plan = p := by
  unfold AddptArgs.plan
  split
  next ind obj hind hobj =>
    rw [turretPos_eq_some_iff] at hind hobj
    rw [Option.ite_none_right_eq_some, Option.some_inj]
    refine (and_congr_left' (b := a.Acceptable cfg ind obj) ?_).trans ?_
    · simp only [AddptArgs.Acceptable, Bool.and_eq_true, decide_eq_true_eq, stagePosition, within_iff, withinInt_iff,
        toolsServe_iff, AddptArgs.limitsAgree_iff, toolsInside_iff, hind, hobj, true_and, and_assoc]
    constructor
    · rintro ⟨hacc, rfl⟩
      exact ⟨ind, obj, hacc, rfl⟩
    · rintro ⟨ind', obj', hacc, rfl⟩
      obtain ⟨hind', hobj', -⟩ := id hacc
      obtain rfl : ind' = ind := Fin.ext (hind'.symm.trans hind)
      obtain rfl : obj' = obj := Fin.ext (hobj'.symm.trans hobj)
      exact ⟨hacc, rfl⟩
  next hnone =>
    simp only [reduceCtorEq, false_iff]
    rintro ⟨ind, obj, ⟨hind, hobj, -⟩, -⟩
    exact hnone ind obj ((turretPos_eq_some_iff _ _).2 hind) ((turretPos_eq_some_iff _ _).2 hobj)

section
variable {s : State} {r : Request} {rest : List Request}

/-- A refused ADDPT changes nothing but the link. -/
theorem exec_addpt_refused (h : s.mayServe r rest .addpt) {a : AnswerCode}
    (hc : addptCheck s.site.cfg s.blk.rsq (AddptArgs.ofPayload r.payload) = .inl a) :
    exec .addpt s = .next (s.answers r rest a []) :=
  congrArg Host.Outcome.next (h.takeRequest_answers (by simp [serveAddpt, hc]))

/-- A taken ADDPT adds the point of its plan part. -/
theorem exec_addpt_taken (h : s.mayServe r rest .addpt) {p : Plan}
    (hc : addptCheck s.site.cfg s.blk.rsq (AddptArgs.ofPayload r.payload) = .inr p) :
    exec .addpt s = .next (s.answersWith r rest (s.blk.rsq.addPoint p)) :=
  congrArg Host.Outcome.next (h.takeRequest_answersWith (by simp [serveAddpt, hc]))

/-- The checks of R18 before the fourth, and R169's on the listed bytes, pass: the plan part decides. -/
theorem addptCheck_of_fresh {cfg : Settings} {u : Rsq} {a : AddptArgs} (hedge : a.edge ≤ 1) (hpres : a.presence ≤ 3)
    (hrun : u.run ≠ .stopping) (hroom : u.points.length < 96) (hnew : ∀ p ∈ u.points, p.plan.seq ≠ a.seq) :
    addptCheck cfg u a = (a.plan cfg).elim (.inl .badArg) .inr := by
  have hfind : u.find a.seq = none := (u.find_eq_none_iff _).2 hnew
  have hbytes : ¬ (1 < a.edge ∨ 3 < a.presence) := by omega
  rw [addptCheck, if_neg hbytes, if_neg hrun, if_neg hroom.not_ge, hfind]
  cases a.plan cfg <;> rfl

end

/-- Settles O27: the checks of `addptCheck` in their order, the last by `AddptArgs.plan_eq_some_iff`. -/
theorem addptEntersARecord : Obligations.AddptEntersARecord := by
  intro s r rest h a u
  refine ⟨fun hbytes => exec_addpt_refused h (if_pos hbytes), fun hedge hpres => ?_⟩
  have hbytes : ¬ (1 < a.edge ∨ 3 < a.presence) := by omega
  refine ⟨fun hrun => exec_addpt_refused h ?_, fun hrun hfull => exec_addpt_refused h ?_,
    fun hrun hroom hdup => exec_addpt_refused h ?_, fun hrun hroom hnew => ?_⟩
  · rw [addptCheck, if_neg hbytes, if_pos hrun]
  · rw [addptCheck, if_neg hbytes, if_neg hrun, if_pos hfull]
  · rw [addptCheck, if_neg hbytes, if_neg hrun, if_neg hroom.not_ge, if_pos ((u.find_isSome_iff _).2 hdup)]
  have hcheck := addptCheck_of_fresh (cfg := s.site.cfg) hedge hpres hrun hroom hnew
  constructor
  · intro hbad
    have hplan : a.plan s.site.cfg = none := by
      rw [Option.eq_none_iff_forall_ne_some]
      intro p hp
      obtain ⟨ind, obj, hacc, -⟩ := (a.plan_eq_some_iff _ p).1 hp
      exact hbad ind obj hacc
    exact exec_addpt_refused h (by rw [hcheck, hplan]; rfl)
  · intro ind obj hacc
    have hplan : a.plan s.site.cfg = some (a.record ind obj).plan := (a.plan_eq_some_iff _ _).2 ⟨ind, obj, hacc, rfl⟩
    exact exec_addpt_taken h (by rw [hcheck, hplan]; rfl)

/-! ### DROPPT (R19) -/

section
variable {s : State} {r : Request} {rest : List Request}

/-- A refused DROPPT changes nothing but the link. -/
theorem exec_droppt_refused (h : s.mayServe r rest .droppt) {a : AnswerCode}
    (hc : dropptCheck s.blk.rsq (nat16At r.payload 1) = a) (ha : a ≠ .done) :
    exec .droppt s = .next (s.answers r rest a []) :=
  congrArg Host.Outcome.next (h.takeRequest_answers (by cases a <;> simp_all [serveDroppt]))

/-- A taken DROPPT drops the record it names. -/
theorem exec_droppt_taken (h : s.mayServe r rest .droppt)
    (hc : dropptCheck s.blk.rsq (nat16At r.payload 1) = .done) :
    exec .droppt s = .next (s.answersWith r rest (s.blk.rsq.dropPoint (nat16At r.payload 1))) :=
  congrArg Host.Outcome.next (h.takeRequest_answersWith (by simp [serveDroppt, hc]))

/-- What a dropped record leaves: the table and the Order List without it, and the run state that follows (R12, R19). -/
theorem Rsq.dropPoint_eq (u : Rsq) (q : Seq) :
    u.dropPoint q =
      let points := u.points.filter fun k => k.plan.seq != q
      { u with
        points := points, orderList := u.orderList.filter fun m => m != q
        run := if points = [] then .empty
          else if u.run = .halted ∧ ∀ k ∈ points, k.progress.state ≠ .waiting ∧ k.progress.state ≠ .indented then .finished
          else u.run } := by
  simp only [Rsq.dropPoint, List.isEmpty_iff, Rsq.hasWork_eq_false_iff]
  split_ifs <;> rfl

theorem dropptCheck_of_find_none {u : Rsq} {q : Seq} (h : u.find q = none) : dropptCheck u q = .unknown := by
  simp only [dropptCheck, Rsq.stateOf, h, Option.map_none]

/-- The check of R19 on a record that is there. -/
theorem dropptCheck_of_find {u : Rsq} {q : Seq} {p : Point} (h : u.find q = some p) :
    dropptCheck u q =
      if (q ∈ u.groupList ∨ u.next.map (·.seq) = some q ∨ u.now.map (·.seq) = some q ∨ u.last.map (·.seq) = some q)
        ∨ ¬ (p.progress.state = .waiting ∨ p.progress.state = .indented) then .busy else .done := by
  simp only [dropptCheck, Rsq.stateOf, h, Option.map_some, ← Rsq.inSlot_iff, ← PointState.open_iff]
  simp

end

/-- Settles O28: UNKNOWN without a record, else the one condition of `dropptCheck_of_find`. -/
theorem dropptRemovesARecord : Obligations.DropptRemovesARecord := by
  intro s r rest h q u
  constructor
  · intro hnew
    exact exec_droppt_refused h (dropptCheck_of_find_none ((u.find_eq_none_iff q).2 hnew)) (by decide)
  intro p hfind held works
  have hcheck := dropptCheck_of_find hfind
  constructor
  · intro hbusy
    exact exec_droppt_refused h (hcheck.trans (if_pos hbusy)) (by decide)
  · intro hheld hworks points
    have hfree : ¬ (held ∨ ¬ works) := fun hor => hor.elim hheld (· hworks)
    rw [exec_droppt_taken h (hcheck.trans (if_neg hfree)), Rsq.dropPoint_eq]

/-! ### RETEST (R24) -/

/-- The sixth check of R24 passes exactly for acceptable arguments. -/
theorem RetestArgs.inRange_iff (a : RetestArgs) (cfg : Settings) (p : Plan) :
    a.inRange cfg p = true ↔ a.Acceptable cfg p := by
  simp only [RetestArgs.inRange, RetestArgs.Acceptable, stagePosition, withinInt_iff, toolsInside_iff, Bool.and_eq_true,
    decide_eq_true_eq, and_assoc]

section
variable {s : State} {r : Request} {rest : List Request}

/-- A refused RETEST changes nothing but the link. -/
theorem exec_retest_refused (h : s.mayServe r rest .retest) {a : AnswerCode}
    (hc : retestCheck s.site.cfg s.blk.rsq (RetestArgs.ofPayload r.payload) = .inl a) :
    exec .retest s = .next (s.answers r rest a []) :=
  congrArg Host.Outcome.next (h.takeRequest_answers (by simp [serveRetest, hc]))

/-- A taken RETEST adds the point of its plan part, at the head of the Order List. -/
theorem exec_retest_taken (h : s.mayServe r rest .retest) {p : Plan}
    (hc : retestCheck s.site.cfg s.blk.rsq (RetestArgs.ofPayload r.payload) = .inr p) :
    exec .retest s = .next (s.answersWith r rest (s.blk.rsq.addRetest p)) :=
  congrArg Host.Outcome.next (h.takeRequest_answersWith (by simp [serveRetest, hc]))

theorem retestCheck_of_find_none {cfg : Settings} {u : Rsq} {a : RetestArgs} (hrun : u.run ≠ .stopping)
    (hfind : u.find a.original = none) : retestCheck cfg u a = .inl .unknown := by
  simp only [retestCheck, if_neg hrun, hfind]

/-- The checks of R24 from the third on, once the original is found. -/
theorem retestCheck_of_find {cfg : Settings} {u : Rsq} {a : RetestArgs} {p : Point} (hrun : u.run ≠ .stopping)
    (hfind : u.find a.original = some p) :
    retestCheck cfg u a =
      if ¬ p.progress.state.terminal = true then .inl .busy
      else if 96 ≤ u.points.length then .inl .full
      else if (u.find a.seq).isSome = true then .inl .duplicate
      else if ¬ a.inRange cfg p.plan = true then .inl .badArg
      else .inr (p.plan.retest a) := by
  simp only [retestCheck, if_neg hrun, hfind, Bool.not_eq_true', Bool.not_eq_true]

end

/-- Settles O31: the checks of `retestCheck` in their order, the last by `RetestArgs.inRange_iff`. -/
theorem retestEntersARecord : Obligations.RetestEntersARecord := by
  intro s r rest h a u
  refine ⟨fun hrun => exec_retest_refused h (if_pos hrun), fun hrun => ⟨fun hnew =>
    exec_retest_refused h (retestCheck_of_find_none hrun ((u.find_eq_none_iff _).2 hnew)), ?_⟩⟩
  intro p hfind ended
  have hcheck := retestCheck_of_find (cfg := s.site.cfg) hrun hfind
  have hended : p.progress.state.terminal = true ↔ ended := p.progress.state.terminal_iff
  refine ⟨fun hopen => exec_retest_refused h ?_, fun hend hfull => exec_retest_refused h ?_,
    fun hend hroom hdup => exec_retest_refused h ?_, fun hend hroom hnew => ?_⟩
  · rw [hcheck, if_pos (mt hended.1 hopen)]
  · rw [hcheck, if_neg (not_not.2 (hended.2 hend)), if_pos hfull]
  · rw [hcheck, if_neg (not_not.2 (hended.2 hend)), if_neg hroom.not_ge, if_pos ((u.find_isSome_iff _).2 hdup)]
  have hfresh : ¬ (u.find a.seq).isSome = true := by simp [(u.find_eq_none_iff _).2 hnew]
  rw [if_neg (not_not.2 (hended.2 hend)), if_neg hroom.not_ge, if_neg hfresh] at hcheck
  have hrange := a.inRange_iff s.site.cfg p.plan
  constructor
  · intro hbad
    exact exec_retest_refused h (hcheck.trans (if_pos (mt hrange.1 hbad)))
  · intro hacc
    exact exec_retest_taken h (hcheck.trans (if_neg (not_not.2 (hrange.2 hacc))))

/-! ### CLEARPLAN (R25, R175) -/

/-- Detaching touches the transmitter alone. -/
theorem Lki.detachResult_eq (l : Lki) : l.detachResult = { l with tx := l.detachResult.tx } := by
  unfold Lki.detachResult
  split <;> rfl

/-- What is sent after detaching follows from what was sent. -/
theorem Lki.detachResult_tx_congr {k l : Lki} (h : k.tx = l.tx) : k.detachResult.tx = l.detachResult.tx := by
  unfold Lki.detachResult
  rw [h]
  split
  · rfl
  all_goals exact h

/-- A RESULT in transmission loses its entry. -/
theorem Lki.detachResult_of_result {l : Lki} {q : Seq} {w : Station} {p : List Byte} {b : Bool}
    (h : l.tx = .sending (.result q w p b)) : l.detachResult.tx = .sending (.result q w p false) := by
  simp only [Lki.detachResult, h]

/-- Any other transmission keeps what it sends. -/
theorem Lki.detachResult_of_not_result {l : Lki} (h : ∀ q w p b, l.tx ≠ .sending (.result q w p b)) :
    l.detachResult.tx = l.tx := by
  unfold Lki.detachResult
  split
  next q w p b hres => exact absurd hres (h q w p b)
  all_goals rfl

section
variable {s : State} {r : Request} {rest : List Request}

theorem exec_clearplan_active (h : s.mayServe r rest .clearplan) (hrun : s.blk.rsq.run.active = true) :
    exec .clearplan s = .next (s.answers r rest .busy []) :=
  congrArg Host.Outcome.next (h.takeRequest_answers (by simp [serveClearplan, hrun]))

/-- CLEARPLAN taken: the plan cleared, the transmitter detached, the answer placed. -/
theorem exec_clearplan_taken (h : s.mayServe r rest .clearplan) (hrun : ¬ s.blk.rsq.run.active = true) :
    exec .clearplan s = .next { s with blk := { s.blk with
      lki := { s.blk.lki.answered r rest .done [] with tx := s.blk.lki.detachResult.tx }
      rsq := { s.blk.rsq with points := [], orderList := [], resultQueue := [], run := .empty } } } := by
  have htx : s.dropRequest.blk.lki.detachResult.tx = s.blk.lki.detachResult.tx := Lki.detachResult_tx_congr rfl
  refine congrArg Host.Outcome.next ?_
  rw [h.takeRequest_eq, serveClearplan, State.dropRequest_rsq, if_neg hrun, Lki.detachResult_eq, htx, ← h.tail_recv]
  rfl

end

/-- Settles O32: BUSY in an active run, else the cleared plan, with the transmitter by `Lki.detachResult`. -/
theorem clearplanEmptiesThePlan : Obligations.ClearplanEmptiesThePlan := by
  intro s r rest h
  refine ⟨fun hrun => exec_clearplan_active h ((RunState.active_iff _).2 hrun), fun hrun hstop => ?_⟩
  have hidle : ¬ s.blk.rsq.run.active = true := fun hact => ((RunState.active_iff _).1 hact).elim hrun hstop
  exact ⟨_, exec_clearplan_taken h hidle, rfl, fun q w p b hres => Lki.detachResult_of_result hres,
    fun hother => Lki.detachResult_of_not_result hother⟩

end Sys2Proof.Machine

/-! PROOFS. Sharing the bench: the Bench Queue as STATE frames and lost peers change it (R59, R60, R63). -/

namespace Sys2Proof.Machine

/-! ### The table of R60, row by row -/

/-- The announced states that wait for a turn: the two a Bench Queue entry may have (R60). -/
def Announce.Waits (a : Announce) : Prop :=
  a = .waitMove ∨ a = .waitQuiet

section
variable (queue : List Station) (s : Station) {before : PeerState} {a : Announce}

theorem benchQueueAfter_withdrawn :
    benchQueueAfter queue s (.heard .moving) .waitMove = s :: queue.filter fun q => q != s :=
  rfl

/-- A waiting state announced again costs nobody a place. -/
theorem benchQueueAfter_repeated (h : a.Waits) : benchQueueAfter queue s (.heard a) a = queue := by
  rcases h with rfl | rfl <;> rfl

/-- The "any other" row. -/
theorem benchQueueAfter_joining (h : a.Waits) (hnew : before ≠ .heard a)
    (hback : ¬ (a = .waitMove ∧ before = .heard .moving)) :
    benchQueueAfter queue s before a = (queue.filter fun q => q != s) ++ [s] := by
  rcases h with rfl | rfl
  · have hmoving : before ≠ .heard .moving := fun hm => hback ⟨rfl, hm⟩
    simp only [benchQueueAfter, if_neg hmoving, if_neg hnew]
  · simp only [benchQueueAfter, if_neg hnew]

theorem benchQueueAfter_leaving (h : ¬ a.Waits) : benchQueueAfter queue s before a = queue.filter fun q => q != s := by
  cases a with
  | waitMove => exact absurd (.inl rfl) h
  | waitQuiet => exact absurd (.inr rfl) h
  | idle | moving | settling | quiet => rfl

/-- The four effects a STATE frame can have on the queue. -/
theorem benchQueueAfter_cases (before : PeerState) (a : Announce) :
    (a.Waits ∧ benchQueueAfter queue s before a = s :: queue.filter fun q => q != s)
      ∨ (a.Waits ∧ benchQueueAfter queue s before a = queue)
      ∨ (a.Waits ∧ benchQueueAfter queue s before a = (queue.filter fun q => q != s) ++ [s])
      ∨ (¬ a.Waits ∧ benchQueueAfter queue s before a = queue.filter fun q => q != s) := by
  by_cases hwaits : a.Waits
  · by_cases hback : a = .waitMove ∧ before = .heard .moving
    · obtain ⟨rfl, rfl⟩ := hback
      exact .inl ⟨hwaits, benchQueueAfter_withdrawn queue s⟩
    · by_cases hnew : before = .heard a
      · subst hnew
        exact .inr (.inl ⟨hwaits, benchQueueAfter_repeated queue s hwaits⟩)
      · exact .inr (.inr (.inl ⟨hwaits, benchQueueAfter_joining queue s hwaits hnew hback⟩))
  · exact .inr (.inr (.inr ⟨hwaits, benchQueueAfter_leaving queue s hwaits⟩))

end

/-! ### What every row keeps -/

section
variable {queue : List Station} {s p : Station} {before : PeerState} {a : Announce}

theorem not_mem_filter_ne_self (queue : List Station) (s : Station) : s ∉ queue.filter fun q => q != s := by
  simp

theorem benchQueueAfter_nodup (h : queue.Nodup) : (benchQueueAfter queue s before a).Nodup := by
  have hrest : (queue.filter fun q => q != s).Nodup := h.filter _
  have hfresh := not_mem_filter_ne_self queue s
  rcases benchQueueAfter_cases queue s before a with ⟨-, he⟩ | ⟨-, he⟩ | ⟨-, he⟩ | ⟨-, he⟩ <;> rw [he]
  · exact List.nodup_cons.2 ⟨hfresh, hrest⟩
  · exact h
  · simpa using hrest.concat hfresh
  · exact hrest

/-- Only the sender comes or goes. -/
theorem mem_benchQueueAfter_of_ne (hne : p ≠ s) : p ∈ benchQueueAfter queue s before a ↔ p ∈ queue := by
  rcases benchQueueAfter_cases queue s before a with ⟨-, he⟩ | ⟨-, he⟩ | ⟨-, he⟩ | ⟨-, he⟩ <;> simp [he, hne]

theorem waits_of_mem_benchQueueAfter (h : s ∈ benchQueueAfter queue s before a) : a.Waits := by
  by_contra hnot
  rw [benchQueueAfter_leaving queue s hnot] at h
  exact not_mem_filter_ne_self queue s h

end

/-! ### The Peer Table after a frame and after a loss (R59, R63) -/

section
variable (c : Bcu) (now : Stamp) {s p : Station} (f : StateFrame)

theorem Bcu.takeFrame_benchQueue :
    (c.takeFrame now s f).benchQueue = benchQueueAfter c.benchQueue s (c.entryState s) f.announced :=
  rfl

@[simp] theorem Bcu.takeFrame_entryState_self : (c.takeFrame now s f).entryState s = .heard f.announced := by
  simp [Bcu.entryState, Bcu.takeFrame]

theorem Bcu.takeFrame_entryState_of_ne (hne : p ≠ s) : (c.takeFrame now s f).entryState p = c.entryState p := by
  simp [Bcu.entryState, Bcu.takeFrame, Vector.getElem_set_ne, Fin.val_ne_of_ne hne.symm]

theorem Bcu.losePeer_benchQueue (s : Station) : (c.losePeer s).benchQueue = c.benchQueue.filter fun q => q != s :=
  rfl

theorem Bcu.losePeer_entryState_of_ne (hne : p ≠ s) : (c.losePeer s).entryState p = c.entryState p := by
  simp [Bcu.entryState, Bcu.losePeer, Vector.getElem_set_ne, Fin.val_ne_of_ne hne.symm]

end

/-! ### The Bench Queue's invariant (R60) -/

/-- The invariant in terms of `Announce.Waits`. -/
theorem Bcu.queueOk_iff {c : Bcu} : c.QueueOk ↔
    c.benchQueue.Nodup ∧ ∀ p ∈ c.benchQueue, ∃ a : Announce, a.Waits ∧ c.entryState p = .heard a := by
  simp [Bcu.QueueOk, Announce.Waits, or_and_right, exists_or]

/-- A queue without doubles holds each of the 16 stations at most once. -/
theorem Bcu.QueueOk.length_le {c : Bcu} (h : c.QueueOk) : c.benchQueue.length ≤ 16 := by
  simpa using h.1.length_le_card

/-- A change at one station keeps the invariant if that station waits when it stands in the new queue. -/
theorem Bcu.QueueOk.of_change_at {c c' : Bcu} {s : Station} (h : c.QueueOk) (hnodup : c'.benchQueue.Nodup)
    (hqueue : ∀ p ≠ s, p ∈ c'.benchQueue → p ∈ c.benchQueue) (hentry : ∀ p ≠ s, c'.entryState p = c.entryState p)
    (hself : s ∈ c'.benchQueue → ∃ a : Announce, a.Waits ∧ c'.entryState s = .heard a) : c'.QueueOk := by
  refine queueOk_iff.2 ⟨hnodup, fun p hp => ?_⟩
  by_cases hps : p = s
  · subst hps
    exact hself hp
  · rw [hentry p hps]
    exact (queueOk_iff.1 h).2 p (hqueue p hps hp)

theorem Bcu.QueueOk.takeFrame {c : Bcu} (h : c.QueueOk) (now : Stamp) (s : Station) (f : StateFrame) :
    (c.takeFrame now s f).QueueOk :=
  h.of_change_at (benchQueueAfter_nodup h.1)
    (fun _ hne => (mem_benchQueueAfter_of_ne hne).1)
    (fun _ hne => c.takeFrame_entryState_of_ne now f hne)
    fun hs => ⟨f.announced, waits_of_mem_benchQueueAfter hs, c.takeFrame_entryState_self now f⟩

theorem Bcu.QueueOk.losePeer {c : Bcu} (h : c.QueueOk) (s : Station) : (c.losePeer s).QueueOk :=
  h.of_change_at (h.1.filter _)
    (fun _ _ hp => List.mem_of_mem_filter hp)
    (fun _ hne => c.losePeer_entryState_of_ne hne)
    fun hs => absurd hs (not_mem_filter_ne_self c.benchQueue s)

/-- Settles O18: each row by the lemma of that row of R60, and the invariant by `Bcu.QueueOk.of_change_at`. -/
theorem benchQueueFollowsTheFrames : Obligations.BenchQueueFollowsTheFrames := by
  intro c now s f
  rw [c.takeFrame_benchQueue now f, c.losePeer_benchQueue s]
  refine ⟨?_, ?_, ?_, ?_, ?_, ?_, rfl, fun h => ⟨h.length_le, h.takeFrame now s f, h.losePeer s⟩⟩
  · intro ha hbefore
    rw [ha, hbefore, benchQueueAfter_withdrawn]
  · intro ha hbefore
    rw [ha, hbefore, benchQueueAfter_repeated _ _ (.inl rfl)]
  · intro ha hbefore
    rw [ha, hbefore, benchQueueAfter_repeated _ _ (.inr rfl)]
  · intro ha hmoving hwaiting
    rw [ha]
    exact benchQueueAfter_joining _ _ (.inl rfl) hwaiting fun hback => hmoving hback.2
  · intro ha hwaiting
    rw [ha]
    exact benchQueueAfter_joining _ _ (.inr rfl) hwaiting fun hback => Announce.noConfusion hback.1
  · intro ha
    refine benchQueueAfter_leaving _ _ ?_
    rcases ha with ha | ha | ha | ha <;> simp [ha, Announce.Waits]

end Sys2Proof.Machine

/-! PROOFS. Measuring the impression: from a bank's edge tables to the outcome (R147 to R157). -/

namespace Sys2Proof.Machine

/-! ### The rows of a stretch of the Row Edge Table (R147) -/

/-- The present entries of rows `a` to `b`. -/
def FrameResults.edges (res : FrameResults) (a b : Fin 256) : Set RowEdge :=
  {e | ∃ i : Fin 256, a ≤ i ∧ i ≤ b ∧ res.rows[i] = some e}

/-- No row between `b` and row `n` is present. -/
def FrameResults.NoRowBetween (res : FrameResults) (b : Fin 256) (n : Nat) : Prop :=
  ∀ i : Fin 256, b < i → i.val < n → res.rows[i] = none

section
variable {res : FrameResults} {a b n : Fin 256} {e : RowEdge}

/-- Up to a present row `n`, a row that is present is that one or stands at `b` or before. -/
theorem FrameResults.NoRowBetween.le_or_eq (h : res.NoRowBetween b n) {i : Fin 256} (hi : i ≤ n)
    (hp : res.rows[i] ≠ none) : i ≤ b ∨ i = n := by
  by_contra hnot
  obtain ⟨hb, hn⟩ := not_or.1 hnot
  exact hp (h i (not_le.1 hb) (lt_of_le_of_ne hi (Fin.val_ne_of_ne hn)))

theorem FrameResults.edges_self (hn : res.rows[n] = some e) : res.edges n n = {e} := by
  ext x
  constructor
  · rintro ⟨i, hlo, hhi, hx⟩
    obtain rfl := le_antisymm hhi hlo
    exact Option.some.inj (hx.symm.trans hn)
  · rintro rfl
    exact ⟨n, le_rfl, le_rfl, hn⟩

theorem FrameResults.edges_extend (hab : a ≤ b) (hbn : b < n) (h : res.NoRowBetween b n) (hn : res.rows[n] = some e) :
    res.edges a n = insert e (res.edges a b) := by
  ext x
  constructor
  · rintro ⟨i, hlo, hhi, hx⟩
    rcases h.le_or_eq hhi (hx ▸ Option.some_ne_none x) with hib | rfl
    · exact .inr ⟨i, hlo, hib, hx⟩
    · exact .inl (Option.some.inj (hx.symm.trans hn))
  · rintro (rfl | ⟨i, hlo, hhi, hx⟩)
    · exact ⟨n, hab.trans hbn.le, le_rfl, hn⟩
    · exact ⟨i, hlo, hhi.trans hbn.le, hx⟩

/-- The rows from `a` to `b` that `sel` selects: what `blockRows` counts. -/
def FrameResults.selected (res : FrameResults) (a b : Fin 256) (sel : RowEdge → Bool) : Finset (Fin 256) :=
  Finset.univ.filter fun i => a ≤ i ∧ i ≤ b ∧ res.rows[i].any sel = true

theorem FrameResults.mem_selected {sel : RowEdge → Bool} {i : Fin 256} :
    i ∈ res.selected a b sel ↔ a ≤ i ∧ i ≤ b ∧ res.rows[i].any sel = true := by
  simp [FrameResults.selected]

theorem FrameResults.blockRows_eq_card (res : FrameResults) (a b : Fin 256) (sel : RowEdge → Bool) :
    res.blockRows a b sel = (res.selected a b sel).card := by
  rw [FrameResults.blockRows, List.countP_eq_length_filter, FrameResults.selected, Fin.univ_def]
  simp [Finset.card, Finset.filter, Bool.and_assoc]

theorem FrameResults.mem_selected_self {sel : RowEdge → Bool} {i : Fin 256} (hn : res.rows[n] = some e) :
    i ∈ res.selected n n sel ↔ i = n ∧ sel e = true := by
  rw [FrameResults.mem_selected, ← and_assoc, and_comm (a := n ≤ i), ← le_antisymm_iff]
  refine and_congr_right ?_
  rintro rfl
  rw [hn, Option.any_some]

theorem FrameResults.mem_selected_extend {sel : RowEdge → Bool} {i : Fin 256} (hab : a ≤ b) (hbn : b < n)
    (h : res.NoRowBetween b n) (hn : res.rows[n] = some e) :
    i ∈ res.selected a n sel ↔ i ∈ res.selected n n sel ∨ i ∈ res.selected a b sel := by
  rw [FrameResults.mem_selected_self hn, FrameResults.mem_selected, FrameResults.mem_selected]
  constructor
  · rintro ⟨hlo, hhi, hsel⟩
    rcases h.le_or_eq hhi (fun hnone => by simp [hnone] at hsel) with hib | rfl
    · exact .inr ⟨hlo, hib, hsel⟩
    · exact .inl ⟨rfl, by rwa [hn] at hsel⟩
  · rintro (⟨rfl, hsel⟩ | ⟨hlo, hhi, hsel⟩)
    · exact ⟨hab.trans hbn.le, le_rfl, by rwa [hn]⟩
    · exact ⟨hlo, hhi.trans hbn.le, hsel⟩

theorem FrameResults.blockRows_self (hn : res.rows[n] = some e) (sel : RowEdge → Bool) :
    res.blockRows n n sel = if sel e = true then 1 else 0 := by
  rw [FrameResults.blockRows_eq_card]
  split_ifs with hsel
  · rw [Finset.card_eq_one]
    exact ⟨n, by ext i; simp [FrameResults.mem_selected_self hn, hsel]⟩
  · rw [Finset.card_eq_zero]
    ext i
    simp [FrameResults.mem_selected_self hn, hsel]

theorem FrameResults.blockRows_extend (hab : a ≤ b) (hbn : b < n) (h : res.NoRowBetween b n) (hn : res.rows[n] = some e)
    (sel : RowEdge → Bool) :
    res.blockRows a n sel = res.blockRows a b sel + if sel e = true then 1 else 0 := by
  rw [← FrameResults.blockRows_self hn]
  have hunion : res.selected a n sel = res.selected a b sel ∪ res.selected n n sel := by
    ext i
    rw [FrameResults.mem_selected_extend hab hbn h hn, Finset.mem_union, or_comm]
  have hdisj : Disjoint (res.selected a b sel) (res.selected n n sel) := by
    rw [Finset.disjoint_left]
    intro i hi hi'
    obtain ⟨-, hib, -⟩ := FrameResults.mem_selected.1 hi
    obtain ⟨hni, -⟩ := FrameResults.mem_selected.1 hi'
    exact absurd (hni.trans hib) (not_le.2 hbn)
  simp only [FrameResults.blockRows_eq_card, hunion, Finset.card_union_of_disjoint hdisj]

end

/-! ### What a block in hand has read (R147, R155) -/

/-- The width of a row entry (R151). -/
def RowEdge.width (e : RowEdge) : Nat :=
  e.right - e.left

/-- `k` stands for rows `a` to `b`: their numbers, their counts and the extremes of their entries. -/
structure Block.Reads (k : Block) (res : FrameResults) (a b : Fin 256) : Prop where
  first : k.first = a.val
  last : k.last = b.val
  count : k.count = res.blockRows a b (fun _ => true)
  split : k.split = res.blockRows a b (fun e => decide (1 < e.runs))
  left : IsLeast (RowEdge.left '' res.edges a b) k.left
  right : IsGreatest (RowEdge.right '' res.edges a b) k.right
  wide : IsGreatest (RowEdge.width '' res.edges a b) k.wide

section
variable {res : FrameResults} {a b n : Fin 256} {e : RowEdge} {k : Block}

theorem Block.single_reads (hn : res.rows[n] = some e) : (Block.single n e).Reads res n n where
  first := rfl
  last := rfl
  count := by simp [Block.single, FrameResults.blockRows_self hn]
  split := by simp [Block.single, FrameResults.blockRows_self hn]
  left := by simp [Block.single, FrameResults.edges_self hn]
  right := by simp [Block.single, FrameResults.edges_self hn]
  wide := by simp [Block.single, FrameResults.edges_self hn, RowEdge.width]

theorem Block.Reads.extend (h : k.Reads res a b) (hab : a ≤ b) (hbn : b < n) (hgap : res.NoRowBetween b n)
    (hn : res.rows[n] = some e) : (k.extend n e).Reads res a n where
  first := h.first
  last := rfl
  count := by simp [Block.extend, FrameResults.blockRows_extend hab hbn hgap hn, h.count]
  split := by simp [Block.extend, FrameResults.blockRows_extend hab hbn hgap hn, h.split]
  left := by
    rw [FrameResults.edges_extend hab hbn hgap hn, Set.image_insert_eq, Block.extend, min_comm]
    exact h.left.insert _
  right := by
    rw [FrameResults.edges_extend hab hbn hgap hn, Set.image_insert_eq, Block.extend, max_comm]
    exact h.right.insert _
  wide := by
    rw [FrameResults.edges_extend hab hbn hgap hn, Set.image_insert_eq]
    show IsGreatest _ (max k.wide e.width)
    rw [max_comm]
    exact h.wide.insert _

end

/-! ### The scan of the table: every block of the specification, in order (R147) -/

/-- A block as far as the rows up to `b` tell: `IsBlock` without its last clause. -/
def FrameResults.BeginsBlock (res : FrameResults) (a b : Fin 256) : Prop :=
  a ≤ b ∧ res.rows[a].isSome = true ∧ res.rows[b].isSome = true
    ∧ (∀ i : Nat, a.val ≤ i → i + 2 ≤ b.val → ∃ j : Fin 256, i ≤ j.val ∧ j.val ≤ i + 2 ∧ res.rows[j].isSome = true)
    ∧ ∀ i : Fin 256, i < a → res.rows[i].isSome = true → i.val + 4 ≤ a.val

/-- What the block in hand says of the rows before row `n`: without one they are absent; one has read a begun block after which
they are absent. -/
def FrameResults.Scanned (res : FrameResults) (n : Nat) : Option Block → Prop
  | none => ∀ i : Fin 256, i.val < n → res.rows[i] = none
  | some k => ∃ a b, k.Reads res a b ∧ res.BeginsBlock a b ∧ b.val < n ∧ res.NoRowBetween b n

section
variable {res : FrameResults} {a b c d n : Fin 256} {e : RowEdge} {k : Block}

theorem FrameResults.isBlock_iff :
    res.IsBlock a b ↔ res.BeginsBlock a b ∧ ∀ i, b < i → res.rows[i].isSome = true → b.val + 4 ≤ i.val := by
  simp only [FrameResults.IsBlock, FrameResults.BeginsBlock, and_assoc]

theorem FrameResults.beginsBlock_self (hn : res.rows[n] = some e)
    (hbelow : ∀ i : Fin 256, i < n → res.rows[i].isSome = true → i.val + 4 ≤ n.val) : res.BeginsBlock n n := by
  have hsome : res.rows[n].isSome = true := by rw [hn, Option.isSome_some]
  exact ⟨le_rfl, hsome, hsome, fun i hlo hhi => by omega, hbelow⟩

/-- A present row at most 3 rows on leaves at most 2 absent rows between, so the begun block goes on to it. -/
theorem FrameResults.BeginsBlock.extend (h : res.BeginsBlock a b) (hbn : b < n) (hnear : n.val ≤ b.val + 3)
    (hn : res.rows[n] = some e) : res.BeginsBlock a n := by
  obtain ⟨hab, ha, hb, hgaps, hbelow⟩ := h
  have hsome : res.rows[n].isSome = true := by rw [hn, Option.isSome_some]
  refine ⟨hab.trans hbn.le, ha, hsome, fun i hlo hhi => ?_, hbelow⟩
  by_cases hin : i + 2 ≤ b.val
  · exact hgaps i hlo hin
  · by_cases hib : i ≤ b.val
    · exact ⟨b, hib, by omega, hb⟩
    · exact ⟨n, by omega, by omega, hsome⟩

theorem FrameResults.NoRowBetween.succ (h : res.NoRowBetween b n) (hn : res.rows[n] = none) :
    res.NoRowBetween b (n.val + 1) := by
  intro i hb hi
  rcases Nat.lt_succ_iff_lt_or_eq.1 hi with hlt | heq
  · exact h i hb hlt
  · rwa [Fin.ext heq]

theorem FrameResults.noRowBetween_succ_self (n : Fin 256) : res.NoRowBetween n (n.val + 1) := by
  intro i hlo hhi
  exact absurd (Fin.lt_def.1 hlo) (by omega)

theorem FrameResults.Scanned.absent {cur : Option Block} (h : res.Scanned n cur) (hn : res.rows[n] = none) :
    res.Scanned (n.val + 1) cur := by
  cases cur with
  | none =>
    intro i hi
    rcases Nat.lt_succ_iff_lt_or_eq.1 hi with hlt | heq
    · exact h i hlt
    · rwa [Fin.ext heq]
  | some k =>
    obtain ⟨a, b, hreads, hbegun, hbn, hgap⟩ := h
    exact ⟨a, b, hreads, hbegun, Nat.lt_succ_of_lt hbn, hgap.succ hn⟩

/-- A present row far enough from every present row before it starts the block in hand. -/
theorem FrameResults.Scanned.start (hn : res.rows[n] = some e)
    (hbelow : ∀ i : Fin 256, i < n → res.rows[i].isSome = true → i.val + 4 ≤ n.val) :
    res.Scanned (n.val + 1) (some (Block.single n e)) :=
  ⟨n, n, Block.single_reads hn, FrameResults.beginsBlock_self hn hbelow, Nat.lt_succ_self _,
    FrameResults.noRowBetween_succ_self n⟩

theorem FrameResults.Scanned.first (h : res.Scanned n none) (hn : res.rows[n] = some e) :
    res.Scanned (n.val + 1) (some (Block.single n e)) :=
  .start hn fun i hi hp => by simp [h i hi] at hp

theorem FrameResults.Scanned.extend (h : res.Scanned n (some k)) (hnear : n.val ≤ k.last + 3) (hn : res.rows[n] = some e) :
    res.Scanned (n.val + 1) (some (k.extend n e)) := by
  obtain ⟨a, b, hreads, hbegun, hbn, hgap⟩ := h
  rw [hreads.last] at hnear
  exact ⟨a, n, hreads.extend hbegun.1 hbn hgap hn, hbegun.extend hbn hnear hn, Nat.lt_succ_self _,
    FrameResults.noRowBetween_succ_self n⟩

theorem FrameResults.Scanned.restart (h : res.Scanned n (some k)) (hfar : ¬ n.val ≤ k.last + 3) (hn : res.rows[n] = some e) :
    res.Scanned (n.val + 1) (some (Block.single n e)) := by
  obtain ⟨a, b, hreads, -, -, hgap⟩ := h
  rw [hreads.last] at hfar
  refine .start hn fun i hi hp => ?_
  have hib : i ≤ b := by
    by_contra hbi
    simp [hgap i (not_le.1 hbi) hi] at hp
  have := Fin.le_def.1 hib
  omega

/-- A list of blocks is what rows `n` to 255 hold: blocks of the specification, one over each present row, in rising order. -/
structure FrameResults.Listed (res : FrameResults) (n : Nat) (ks : List Block) : Prop where
  isBlock : ∀ k ∈ ks, ∃ a b, k.Reads res a b ∧ res.IsBlock a b
  covers : ∀ i : Fin 256, n ≤ i.val → res.rows[i].isSome = true → ∃ k ∈ ks, k.first ≤ i.val ∧ i.val ≤ k.last
  rising : ks.Pairwise fun k l => k.first < l.first
  after : ∀ k ∈ ks, n ≤ k.first

theorem FrameResults.listed_nil {n : Nat} (hn : ∀ i : Fin 256, n ≤ i.val → res.rows[i] = none) : res.Listed n [] where
  isBlock := by simp
  covers i hi hp := by simp [hn i hi] at hp
  rising := .nil
  after := by simp

/-- Absent rows before row `m` list nothing. -/
theorem FrameResults.Listed.of_absent {n m : Nat} {ks : List Block} (h : res.Listed m ks) (hnm : n ≤ m)
    (habs : ∀ i : Fin 256, n ≤ i.val → i.val < m → res.rows[i] = none) : res.Listed n ks where
  isBlock := h.isBlock
  covers i hi hp := by
    refine h.covers i (not_lt.1 fun him => ?_) hp
    simp [habs i hi him] at hp
  rising := h.rising
  after k hk := hnm.trans (h.after k hk)

/-- A block in hand that no row before `n` can join any more, and what the rows from `n` on hold. -/
theorem FrameResults.Listed.cons {n : Nat} {ks : List Block} (h : res.Listed n ks) (hk : res.Scanned n (some k))
    (hfar : ∀ i : Fin 256, n ≤ i.val → res.rows[i].isSome = true → k.last + 4 ≤ i.val) : res.Listed k.first (k :: ks) := by
  obtain ⟨a, b, hreads, hbegun, hbn, hgap⟩ := hk
  have hab : k.first ≤ k.last := by
    rw [hreads.first, hreads.last]
    exact hbegun.1
  have hlast : k.last < n := by rwa [hreads.last]
  have habsent : ∀ i : Fin 256, k.last < i.val → res.rows[i].isSome = true → n ≤ i.val := by
    intro i hi hp
    by_contra hin
    rw [hreads.last] at hi
    simp [hgap i hi (not_le.1 hin)] at hp
  refine ⟨?_, fun i hi hp => ?_, List.pairwise_cons.2 ⟨fun l hl => ?_, h.rising⟩, ?_⟩
  · rintro l (_ | ⟨_, hl⟩)
    · refine ⟨a, b, hreads, FrameResults.isBlock_iff.2 ⟨hbegun, fun i hi hp => ?_⟩⟩
      rw [← hreads.last]
      exact hfar i (habsent i (by rwa [hreads.last]) hp) hp
    · exact h.isBlock l hl
  · by_cases hin : i.val ≤ k.last
    · exact ⟨k, .head _, hi, hin⟩
    · obtain ⟨l, hl, hcov⟩ := h.covers i (habsent i (not_le.1 hin) hp) hp
      exact ⟨l, .tail _ hl, hcov⟩
  · exact (hab.trans_lt hlast).trans_le (h.after l hl)
  · rintro l (_ | ⟨_, hl⟩)
    · exact le_rfl
    · exact (hab.trans hlast.le).trans (h.after l hl)

end

/-- The scan from row `n` on, with the block in hand, lists what the rows from that block on hold. -/
theorem blocksFrom_listed (res : FrameResults) (table : List (Option RowEdge)) :
    ∀ (n : Nat) (cur : Option Block), res.rows.toList.drop n = table → res.Scanned n cur →
      res.Listed (cur.elim n Block.first) (blocksFrom n cur table) := by
  induction table with
  | nil =>
    intro n cur htable hcur
    have hend : ∀ i : Fin 256, ¬ n ≤ i.val := by
      have := List.drop_eq_nil_iff.1 htable
      simp at this
      omega
    have hnil : res.Listed n [] := FrameResults.listed_nil fun i hi => absurd hi (hend i)
    cases cur with
    | none => exact hnil
    | some k => exact hnil.cons hcur fun i hi => absurd hi (hend i)
  | cons x rest ih =>
    intro n cur htable hcur
    have hlt : n < 256 := by
      by_contra hge
      simp [List.drop_eq_nil_of_le, not_lt.1 hge] at htable
    obtain ⟨n, rfl⟩ : ∃ m : Fin 256, n = m.val := ⟨⟨n, hlt⟩, rfl⟩
    rw [List.drop_eq_getElem_cons (by simp)] at htable
    obtain ⟨hx, hrest⟩ := List.cons.inj htable
    have hx : res.rows[n] = x := by simpa using hx
    cases x with
    | none =>
      have hscan := ih (n.val + 1) cur hrest (hcur.absent hx)
      cases cur with
      | none =>
        refine hscan.of_absent (Nat.le_succ _) fun i hlo hhi => ?_
        rwa [Fin.ext (le_antisymm (Nat.le_of_lt_succ hhi) hlo)]
      | some k => exact hscan
    | some e =>
      cases cur with
      | none => exact ih (n.val + 1) (some (Block.single n e)) hrest (hcur.first hx)
      | some k =>
        by_cases hnear : n.val ≤ k.last + 3
        · rw [blocksFrom, if_pos hnear]
          exact ih (n.val + 1) (some (k.extend n e)) hrest (hcur.extend hnear hx)
        · rw [blocksFrom, if_neg hnear]
          have hnext : res.Listed n _ := ih (n.val + 1) (some (Block.single n e)) hrest (hcur.restart hnear hx)
          exact hnext.cons hcur fun i hi _ => (not_le.1 hnear).trans_le hi

/-! ### The impression block (R147) -/

section
variable {res : FrameResults} {a b c d i : Fin 256} {k l : Block}

/-- The rows below a block's first leave no room for a block that reaches it from there. -/
theorem FrameResults.IsBlock.first_eq (hab : res.IsBlock a b) (hcd : res.IsBlock c d) (hca : c ≤ a) (had : a ≤ d) :
    c = a := by
  obtain ⟨-, -, -, -, hbelow, -⟩ := hab
  obtain ⟨-, hc, -, hgaps, -, -⟩ := hcd
  by_contra hne
  have hfour := hbelow c (lt_of_le_of_ne hca hne) hc
  obtain ⟨j, hlo, hhi, hj⟩ := hgaps (a.val - 3) (by omega) (by omega)
  have := hbelow j (by omega) hj
  omega

theorem FrameResults.IsBlock.last_eq (hab : res.IsBlock a b) (hcd : res.IsBlock c d) (hcb : c ≤ b) (hbd : b ≤ d) :
    b = d := by
  obtain ⟨-, -, -, -, -, habove⟩ := hab
  obtain ⟨-, -, hd, hgaps, -, -⟩ := hcd
  by_contra hne
  have hfour := habove d (lt_of_le_of_ne hbd hne) hd
  obtain ⟨j, hlo, hhi, hj⟩ := hgaps (b.val + 1) (by omega) (by omega)
  have := habove j (by omega) hj
  omega

/-- Two blocks that share a row are the same. -/
theorem FrameResults.IsBlock.eq_of_overlap (hab : res.IsBlock a b) (hcd : res.IsBlock c d) (hai : a ≤ i) (hib : i ≤ b)
    (hci : c ≤ i) (hid : i ≤ d) : a = c ∧ b = d := by
  constructor
  · rcases le_total c a with h | h
    · exact (hab.first_eq hcd h (hai.trans hid)).symm
    · exact hcd.first_eq hab h (hci.trans hib)
  · rcases le_total b d with h | h
    · exact hab.last_eq hcd (hci.trans hib) h
    · exact (hcd.last_eq hab (hai.trans hid) h).symm

theorem FrameResults.IsImpression.unique (hab : res.IsImpression a b) (hcd : res.IsImpression c d) : a = c ∧ b = d := by
  obtain ⟨hab, habest⟩ := hab
  obtain ⟨hcd, hcdest⟩ := hcd
  have hle := habest c d hcd
  have hge := hcdest a b hab
  have hac : a = c := by
    apply Fin.ext
    omega
  subst hac
  exact hab.eq_of_overlap hcd le_rfl hab.1 le_rfl hcd.1

/-- The scan of the whole table lists its blocks. -/
theorem FrameResults.blocks_listed (res : FrameResults) : res.Listed 0 (blocksFrom 0 none res.rows.toList) :=
  blocksFrom_listed res _ 0 none rfl fun _ hi => absurd hi (Nat.not_lt_zero _)

/-- Every block of the specification is in the list. -/
theorem FrameResults.Listed.exists_reads {ks : List Block} (h : res.Listed 0 ks) (hab : res.IsBlock a b) :
    ∃ k ∈ ks, k.Reads res a b := by
  obtain ⟨hle, ha, -⟩ := id hab
  obtain ⟨k, hk, hlo, hhi⟩ := h.covers a (Nat.zero_le _) ha
  obtain ⟨c, d, hreads, hcd⟩ := h.isBlock k hk
  rw [hreads.first] at hlo
  rw [hreads.last] at hhi
  obtain ⟨rfl, rfl⟩ := hcd.eq_of_overlap hab hlo hhi le_rfl hle
  exact ⟨k, hk, hreads⟩

/-- What stands no later in a rising list has no higher first row. -/
theorem first_le_of_idxOf_le {ks : List Block} (h : ks.Pairwise fun k l => k.first < l.first) (hk : k ∈ ks) (hl : l ∈ ks)
    (hle : ks.idxOf k ≤ ks.idxOf l) : k.first ≤ l.first := by
  rcases hle.lt_or_eq with hlt | heq
  · have := List.pairwise_iff_getElem.1 h _ _ (List.idxOf_lt_length_of_mem hk) (List.idxOf_lt_length_of_mem hl) hlt
    rw [List.getElem_idxOf, List.getElem_idxOf] at this
    exact this.le
  · rw [(List.idxOf_inj hk).1 heq]

theorem foldl_best_eq_foldl_argAux (b : Block) (ks : List Block) :
    some (ks.foldl (fun best c => if best.count < c.count then c else best) b) =
      ks.foldl (List.argAux fun b c => Block.count c < Block.count b) (some b) := by
  induction ks generalizing b with
  | nil => rfl
  | cons c ks ih =>
    rw [List.foldl_cons, ih, List.foldl_cons, apply_ite some]
    rfl

/-- The impression block is the first of the blocks with the most block rows. -/
theorem impressionBlock_eq_argmax (table : List (Option RowEdge)) :
    impressionBlock table = (blocksFrom 0 none table).argmax Block.count := by
  unfold impressionBlock
  cases blocksFrom 0 none table with
  | nil => rfl
  | cons b ks => exact foldl_best_eq_foldl_argAux b ks

/-- The block the model finds is an impression block of the specification. -/
theorem isImpression_of_impressionBlock (h : impressionBlock res.rows.toList = some k) :
    ∃ a b, k.Reads res a b ∧ res.IsImpression a b := by
  have hlist := res.blocks_listed
  rw [impressionBlock_eq_argmax, ← Option.mem_def, List.mem_argmax_iff] at h
  obtain ⟨hk, hmost, hfirst⟩ := h
  obtain ⟨a, b, hreads, hblock⟩ := hlist.isBlock k hk
  refine ⟨a, b, hreads, hblock, fun c d hcd => ?_⟩
  obtain ⟨l, hl, hother⟩ := hlist.exists_reads hcd
  rw [← hreads.count, ← hother.count]
  rcases (hmost l hl).lt_or_eq with hlt | heq
  · exact .inl hlt
  · have hle := first_le_of_idxOf_le hlist.rising hk hl (hfirst l hl heq.ge)
    rw [hreads.first, hother.first] at hle
    exact .inr ⟨heq, hle⟩

/-- A table with a present row has an impression block. -/
theorem exists_impressionBlock (h : res.rows[i].isSome = true) : ∃ k, impressionBlock res.rows.toList = some k := by
  obtain ⟨k, hk, -⟩ := res.blocks_listed.covers i (Nat.zero_le _) h
  rw [impressionBlock_eq_argmax, ← Option.isSome_iff_exists, Option.isSome_iff_ne_none, ne_eq, List.argmax_eq_none]
  exact List.ne_nil_of_mem hk

theorem impressionBlock_eq_none (h : ∀ i : Fin 256, res.rows[i] = none) : impressionBlock res.rows.toList = none := by
  rw [Option.eq_none_iff_forall_ne_some]
  intro k hk
  obtain ⟨a, b, -, ⟨-, ha, -⟩, -⟩ := isImpression_of_impressionBlock hk
  rw [h a] at ha
  exact Bool.noConfusion ha

/-- The model finds the impression block of the specification. -/
theorem FrameResults.IsImpression.impressionBlock_eq (h : res.IsImpression a b) :
    ∃ k, impressionBlock res.rows.toList = some k ∧ k.Reads res a b := by
  obtain ⟨⟨-, ha, -⟩, -⟩ := id h
  obtain ⟨k, hk⟩ := exists_impressionBlock ha
  obtain ⟨c, d, hreads, hcd⟩ := isImpression_of_impressionBlock hk
  obtain ⟨rfl, rfl⟩ := hcd.unique h
  exact ⟨k, hk, hreads⟩

end

/-! ### The extent of a block (R147, R151) -/

/-- The heights of the present columns of the span from `left` to `right`. -/
def FrameResults.heights (res : FrameResults) (left right : Nat) : Set Nat :=
  ColEdge.height '' {e | ∃ j : Fin 256, left / 16 ≤ j.val ∧ j.val ≤ right / 16 ∧ res.cols[j] = some e}

theorem FrameResults.extent_iff {res : FrameResults} {a b : Fin 256} {left right wide tall : Nat} :
    res.Extent a b left right wide tall ↔
      IsLeast (RowEdge.left '' res.edges a b) left ∧ IsGreatest (RowEdge.right '' res.edges a b) right
        ∧ IsGreatest (RowEdge.width '' res.edges a b) wide ∧ IsGreatest (insert 0 (res.heights left right)) tall := by
  constructor
  · rintro ⟨hleft, hright, hwide, hrows, hcols, htall⟩
    exact ⟨⟨hleft, Set.forall_mem_image.2 fun e he => (hrows e he).1⟩,
      ⟨hright, Set.forall_mem_image.2 fun e he => (hrows e he).2.1⟩,
      ⟨hwide, Set.forall_mem_image.2 fun e he => (hrows e he).2.2⟩,
      htall, Set.forall_mem_insert.2 ⟨Nat.zero_le _, Set.forall_mem_image.2 hcols⟩⟩
  · rintro ⟨⟨hleft, hlo⟩, ⟨hright, hhi⟩, ⟨hwide, hmost⟩, htall, hcols⟩
    exact ⟨hleft, hright, hwide, fun e he => ⟨hlo ⟨e, he, rfl⟩, hhi ⟨e, he, rfl⟩, hmost ⟨e, he, rfl⟩⟩,
      fun e he => hcols (.inr ⟨e, he, rfl⟩), htall⟩

theorem isGreatest_maxOf (l : List Nat) : IsGreatest (insert 0 {x | x ∈ l}) (maxOf l) := by
  induction l using List.reverseRecOn with
  | nil => simp [maxOf]
  | append_singleton l y ih =>
    have hset : insert 0 {x | x ∈ l ++ [y]} = insert y (insert 0 {x | x ∈ l}) := by
      ext x
      simp [or_assoc, or_comm]
    rw [hset, maxOf, List.foldl_append, List.foldl_cons, List.foldl_nil, max_comm]
    exact ih.insert y

/-- A list entry stands in the stretch from `lo` to `hi` at one of its places. -/
theorem mem_take_drop_iff {α : Type} {l : List α} {lo hi : Nat} {x : α} (h : lo ≤ hi) :
    x ∈ (l.drop lo).take (hi - lo + 1) ↔ ∃ j, lo ≤ j ∧ j ≤ hi ∧ l[j]? = some x := by
  simp only [List.mem_iff_getElem?, List.getElem?_take, List.getElem?_drop, Option.ite_none_right_eq_some]
  constructor
  · rintro ⟨j, hj, hx⟩
    exact ⟨lo + j, by omega, by omega, hx⟩
  · rintro ⟨j, hlo, hhi, hx⟩
    exact ⟨j - lo, by omega, by rwa [Nat.add_sub_of_le hlo]⟩

/-- On a span that is one, the vertical diagonal is the greatest height. -/
theorem isGreatest_verticalExtent (res : FrameResults) {k : Block} (h : k.left / 16 ≤ k.right / 16) :
    IsGreatest (insert 0 (res.heights k.left k.right)) (verticalExtent k res.cols.toList) := by
  have hset : res.heights k.left k.right = {x | x ∈ ((res.cols.toList.drop (k.left / 16)).take
      (k.right / 16 - k.left / 16 + 1)).filterMap fun c => c.map (·.height)} := by
    ext x
    simp only [FrameResults.heights, Set.mem_image, Set.mem_ofPred_eq, List.mem_filterMap, mem_take_drop_iff h,
      Option.map_eq_some_iff]
    constructor
    · rintro ⟨e, ⟨j, hlo, hhi, hj⟩, rfl⟩
      exact ⟨some e, ⟨j.val, hlo, hhi, by simpa using hj⟩, e, rfl, rfl⟩
    · rintro ⟨-, ⟨j, hlo, hhi, hj⟩, e, rfl, rfl⟩
      obtain ⟨hlt, hj⟩ := List.getElem?_eq_some_iff.1 hj
      exact ⟨e, ⟨⟨j, by simpa using hlt⟩, hlo, hhi, by simpa using hj⟩, rfl⟩
  rw [hset]
  exact isGreatest_maxOf _

theorem FrameResults.heights_eq_empty (res : FrameResults) {left right : Nat} (h : right / 16 < left / 16) :
    res.heights left right = ∅ := by
  rw [FrameResults.heights, Set.image_eq_empty, Set.eq_empty_iff_forall_notMem]
  rintro e ⟨j, hlo, hhi, -⟩
  omega

section
variable {res : FrameResults} {a b : Fin 256} {k : Block} {left right wide tall : Nat}

/-- A row wide at all sets the sides in order. -/
theorem Block.Reads.left_le_right (h : k.Reads res a b) (hwide : 0 < k.wide) : k.left ≤ k.right := by
  obtain ⟨e, he, hw⟩ := h.wide.1
  have hlo : k.left ≤ e.left := h.left.2 ⟨e, he, rfl⟩
  have hhi : e.right ≤ k.right := h.right.2 ⟨e, he, rfl⟩
  rw [← hw, RowEdge.width] at hwide
  omega

/-- What a block has read has an extent. -/
theorem Block.Reads.exists_extent (h : k.Reads res a b) : ∃ tall, res.Extent a b k.left k.right k.wide tall := by
  by_cases hspan : k.left / 16 ≤ k.right / 16
  · exact ⟨_, FrameResults.extent_iff.2 ⟨h.left, h.right, h.wide, isGreatest_verticalExtent res hspan⟩⟩
  · refine ⟨0, FrameResults.extent_iff.2 ⟨h.left, h.right, h.wide, ?_⟩⟩
    rw [res.heights_eq_empty (not_le.1 hspan)]
    simp

theorem exists_impression_and_extent (h : ∃ i : Fin 256, res.rows[i].isSome = true) :
    ∃ a b left right wide tall, res.IsImpression a b ∧ res.Extent a b left right wide tall := by
  obtain ⟨i, hi⟩ := h
  obtain ⟨k, hk⟩ := exists_impressionBlock hi
  obtain ⟨a, b, hreads, himp⟩ := isImpression_of_impressionBlock hk
  obtain ⟨tall, hext⟩ := hreads.exists_extent
  exact ⟨a, b, k.left, k.right, k.wide, tall, himp, hext⟩

/-- The extent of a block that has been read is what was read; the height too, where a row is wide at all. -/
theorem Block.Reads.eq_of_extent (h : k.Reads res a b) (hext : res.Extent a b left right wide tall) :
    k.left = left ∧ k.right = right ∧ k.wide = wide ∧ (0 < wide → verticalExtent k res.cols.toList = tall) := by
  obtain ⟨hleft, hright, hwide, htall⟩ := FrameResults.extent_iff.1 hext
  obtain rfl := h.left.unique hleft
  obtain rfl := h.right.unique hright
  obtain rfl := h.wide.unique hwide
  exact ⟨rfl, rfl, rfl, fun hpos =>
    (isGreatest_verticalExtent res (Nat.div_le_div_right (h.left_le_right hpos))).unique htall⟩

end

/-! ### The clip and its re-centring (R148 to R150) -/

theorem Block.clipped_iff (k : Block) :
    (k.clippedV || k.clippedH) = true ↔ k.first = 0 ∨ k.last = 255 ∨ k.left = 0 ∨ k.right = 4080 := by
  simp [Block.clippedV, Block.clippedH, or_assoc]

theorem Block.through_iff (k : Block) :
    k.through = true ↔ (k.first = 0 ∧ k.last = 255) ∨ (k.left = 0 ∧ k.right = 4080) := by
  simp [Block.through]

theorem clampInt_eq_max_min {lo hi : Int} (h : lo ≤ hi) (v : Int) : clampInt lo hi v = max lo (min hi v) := by
  unfold clampInt
  split_ifs <;> omega

theorem horizontalOffset_eq (k : Block) (scale : Nat) :
    horizontalOffset k scale = (2 * (((k.left : Int) + k.right - 4080) * scale) + 3200) / 6400 := by
  simp [horizontalOffset, roundHalfUp]

theorem halfAwayFromZero_eq (n : Int) : halfAwayFromZero n = if 0 ≤ n then (n + 1) / 2 else -((1 - n) / 2) := by
  rw [halfAwayFromZero, neg_add_eq_sub]

theorem newWindowTop_eq (m : Measurement) (err : Int) :
    newWindowTop m err = max 0 (min 64 ((m.windowTop : Int) + if m.revRow then -err else err)) :=
  clampInt_eq_max_min (by decide) _

theorem residualRows_eq (m : Measurement) (err : Int) :
    residualRows m err = err - if m.revRow then m.windowTop - newWindowTop m err else newWindowTop m err - m.windowTop := by
  rw [residualRows, neg_sub]

theorem recentringOf_for (m : Measurement) {k : Block} {a b : Fin 256} (ha : k.first = a.val) (hb : k.last = b.val) :
    (recentringOf m k).For m a b k.left k.right := by
  have hvertical : k.clippedV = true ↔ a.val = 0 ∨ b.val = 255 := by simp [Block.clippedV, ha, hb]
  have hhorizontal : k.clippedH = true ↔ k.left = 0 ∨ k.right = 4080 := by simp [Block.clippedH]
  have herr : rowError k = halfAwayFromZero ((a.val : Int) + b.val - 255) := by rw [rowError, ha, hb]
  dsimp only [Recentring.For]
  rw [← halfAwayFromZero_eq, ← herr, ← newWindowTop_eq, ← residualRows_eq]
  have hmoved : ((newWindowTop m (rowError k)).toNat != m.windowTop) = true ↔ newWindowTop m (rowError k) ≠ m.windowTop := by
    have hnonneg : 0 ≤ newWindowTop m (rowError k) := by
      rw [newWindowTop_eq]
      exact le_max_left _ _
    rw [bne_iff_ne]
    omega
  refine ⟨?_, ?_, ?_⟩
  · simp only [recentringOf, Bool.and_eq_true, hvertical, hmoved]
  · simp only [recentringOf, hhorizontal, horizontalOffset_eq]
  · simp [recentringOf, hvertical, roundHalfUp]

/-! ### The values of the result part (R152 to R157) -/

theorem verdictOf_of_no_limit (h : Nat) : verdictOf none none h = .noLimit :=
  rfl

theorem verdictOf_of_lt_low {a h : Nat} (high : Option Nat) (hlow : h < a) : verdictOf (some a) high h = .low := by
  simp [verdictOf, hlow]

theorem verdictOf_of_high_lt {low : Option Nat} {a h : Nat} (hlow : ∀ b, low = some b → b ≤ h) (hhigh : a < h) :
    verdictOf low (some a) h = .high := by
  cases low with
  | none => simp [verdictOf, hhigh]
  | some b => simp [verdictOf, hhigh, hlow b rfl]

theorem verdictOf_of_within {low high : Option Nat} {h : Nat} (hsome : low ≠ none ∨ high ≠ none)
    (hlow : ∀ a, low = some a → a ≤ h) (hhigh : ∀ a, high = some a → h ≤ a) : verdictOf low high h = .pass := by
  rw [verdictOf, if_neg (not_and_or.2 hsome), if_neg, if_neg] <;> rw [Option.any_eq_true]
  · rintro ⟨a, ha, hlt⟩
    exact absurd (hhigh a ha) (by simpa using hlt)
  · rintro ⟨a, ha, hlt⟩
    exact absurd (hlow a ha) (by simpa using hlt)

theorem toNanometres_eq (n scale : Nat) : toNanometres n scale = (2 * (n * scale) + 16) / 32 :=
  rfl

theorem meanDiagonal_eq (tool : ToolKind) (dH dV : Nat) :
    meanDiagonal tool dH dV = if tool = .knoop then dH else (2 * (dH + dV) + 2) / 4 :=
  rfl

theorem hardnessOf_eq (tool : ToolKind) (force : Int) {d : Nat} (hd : 0 < d) :
    (hardnessOf tool force d : Int) = max 0 (min 65535 ((2 * (hardnessConstant tool * force) + d * d) / (2 * (d * d)))) := by
  rw [hardnessOf, if_neg hd.ne', clampInt_eq_max_min (by decide), roundHalfUp, Int.toNat_of_nonneg (le_max_left _ _),
    Nat.cast_mul]

theorem asymOf_iff (tool : ToolKind) (limit dH dV d : Nat) :
    asymOf tool limit dH dV d = true ↔ tool ≠ .knoop ∧ limit * d < (max dH dV - min dH dV) * 1000 := by
  simp [asymOf]

theorem tooNear_iff (m : Measurement) (d : Nat) (p : Point) :
    tooNear m d p = true ↔ p.plan.seq ≠ m.seq ∧ p.progress.state = .done
      ∧ 1000000 * ((p.plan.x - m.x) ^ 2 + (p.plan.y - m.y) ^ 2) < ((m.spacing * d : Nat) : Int) ^ 2 := by
  simp [tooNear, and_assoc]

/-! ### The outcomes of a measurement (R146 to R157) -/

section
variable {m : Measurement} {res : FrameResults} {points : List Point} {k : Block}

theorem measure_of_no_block (h : impressionBlock res.rows.toList = none) : measure m res points = .noImpression := by
  simp only [measure, h]

theorem measure_of_clipped (h : impressionBlock res.rows.toList = some k)
    (hclip : k.first = 0 ∨ k.last = 255 ∨ k.left = 0 ∨ k.right = 4080) :
    measure m res points = .clipped (if k.through = true then none else some (recentringOf m k)) := by
  simp only [measure, h, if_pos (k.clipped_iff.2 hclip)]

theorem measure_of_small (h : impressionBlock res.rows.toList = some k)
    (hclip : ¬ (k.first = 0 ∨ k.last = 255 ∨ k.left = 0 ∨ k.right = 4080))
    (hsmall : k.wide < 320 ∨ verticalExtent k res.cols.toList < 320) : measure m res points = .tooSmall := by
  simp only [measure, h, if_neg (mt k.clipped_iff.1 hclip), if_pos hsmall]

/-- The result part of a block whose vertical diagonal is `tall` sixteenths (R157). -/
def Measurement.resultOf (m : Measurement) (k : Block) (tall : Nat) (points : List Point) : ResultPart :=
  let dH := toNanometres k.wide m.scale
  let dV := toNanometres tall m.scale
  let d := meanDiagonal m.tool dH dV
  let h := hardnessOf m.tool m.force d
  { dH := dH, dV := dV, hardness := h, verdict := verdictOf m.low m.high h
    asym := asymOf m.tool m.asymmetry dH dV d, split := splitOf k, spacing := points.any (tooNear m d)
    offX := horizontalOffset k m.scale, offY := roundHalfUp (((k.first : Int) + k.last - 255) * m.scale) 200
    stamp := m.values.stamp, level := m.values.level, height := m.values.height }

theorem measure_of_measured (h : impressionBlock res.rows.toList = some k)
    (hclip : ¬ (k.first = 0 ∨ k.last = 255 ∨ k.left = 0 ∨ k.right = 4080))
    (hsize : ¬ (k.wide < 320 ∨ verticalExtent k res.cols.toList < 320)) :
    measure m res points = .done (m.resultOf k (verticalExtent k res.cols.toList) points) := by
  simp only [measure, h, if_neg (mt k.clipped_iff.1 hclip), if_neg hsize]
  rfl

end

/-- Settles O60: the impression block by `FrameResults.IsImpression.impressionBlock_eq`, its extent by `Block.Reads.eq_of_extent`,
and the outcome by the lemma of its case of `measure`. -/
theorem resultFollowsTheBlock : Obligations.ResultFollowsTheBlock := by
  refine ⟨fun low high h => ⟨?_, ?_, ?_, verdictOf_of_within⟩, fun res hsome => ?_, fun m res points => ⟨fun hnone => ?_, ?_⟩⟩
  · rintro rfl rfl
    exact verdictOf_of_no_limit h
  · rintro a rfl hlt
    exact verdictOf_of_lt_low high hlt
  · rintro a rfl hlt hlow
    exact verdictOf_of_high_lt hlow hlt
  · exact exists_impression_and_extent hsome
  · exact measure_of_no_block (impressionBlock_eq_none hnone)
  · intro a b left right wide tall himp hext clipped through
    obtain ⟨k, hk, hreads⟩ := himp.impressionBlock_eq
    obtain ⟨rfl, rfl, rfl, htall⟩ := hreads.eq_of_extent hext
    have hclipped : k.first = 0 ∨ k.last = 255 ∨ k.left = 0 ∨ k.right = 4080 ↔ clipped := by rw [hreads.first, hreads.last]
    have hthrough : k.through = true ↔ through := by rw [k.through_iff, hreads.first, hreads.last]
    refine ⟨fun hthrough' => ?_, fun hclip hnot => ?_, fun hclip hsmall => ?_, fun hclip hwide hhigh => ?_⟩
    · have hclip : clipped := by
        rcases hthrough' with ⟨hfirst, -⟩ | ⟨hleft, -⟩
        · exact .inl hfirst
        · exact .inr (.inr (.inl hleft))
      rw [measure_of_clipped hk (hclipped.2 hclip), if_pos (hthrough.2 hthrough')]
    · rw [measure_of_clipped hk (hclipped.2 hclip), if_neg (mt hthrough.1 hnot)]
      exact ⟨_, rfl, recentringOf_for m hreads.first hreads.last⟩
    · refine measure_of_small hk (mt hclipped.1 hclip) ?_
      by_cases hpos : 0 < k.wide
      · rwa [htall hpos]
      · exact .inl (by omega)
    · have hv := htall (by omega)
      rw [measure_of_measured hk (mt hclipped.1 hclip) (by omega), hv]
      refine ⟨_, rfl, toNanometres_eq _ _, toNanometres_eq _ _, horizontalOffset_eq k m.scale, ?_, rfl, rfl, rfl, ?_, rfl,
        fun hd => hardnessOf_eq _ _ hd, asymOf_iff _ _ _ _ _, ?_⟩
      · simp [Measurement.resultOf, roundHalfUp, hreads.first, hreads.last]
      · simp [Measurement.resultOf, splitOf, hreads.count, hreads.split]
      · simp only [Measurement.resultOf, List.any_eq_true, tooNear_iff, meanDiagonal_eq]

end Sys2Proof.Machine
